-- ==== Sys2Proof/Word.lean ====
section
/-! DEFINITION. The datum of the engine: the byte (R12, R13), and the two value types that are lists.
A byte is an integer 0..255 with bit 0 its least-significant bit; there are no signed values in the datapath. -/

namespace Sys2Proof

/-- A byte (R12): an integer 0..255, held as 8 bits. -/
abbrev Byte := BitVec 8

/-- A byte sequence (R12), index 0 the first byte received or transmitted. -/
abbrev Bytes := List Byte

/-- A text of the diagnostic stream (R128), as its list of characters. -/
abbrev Text := List Char

end Sys2Proof
end

