-- ==== Sys2Proof/Config.lean ====
section
/-! DEFINITION. The configuration record CFG (R9): the engine's control registers, fixed at construction (R39).
`Cfg` is the record type; every rule of the model reads the record that `State.cfg` holds, so a statement about
every state is a statement about every configuration. `Config.cfg` is the one configuration that `State.reset`
is constructed with: its OPEN fields are constants WITHOUT A BODY (R9: "a model takes them as arguments and a
proof holds for every value that meets the stated constraint"), so that nothing can be proved from a value of
theirs (notes/assumptions/1.md). -/

namespace Sys2Proof

/-- The configuration record CFG, one field for each row of the table of R9. -/
structure Cfg where
  /-- HDR0, the first header sentinel byte. -/
  hdr0 : Byte
  /-- HDR1, the second header sentinel byte. -/
  hdr1 : Byte
  /-- POLY, the polynomial constant of the Checksum Unit. -/
  poly : Byte
  /-- INSTR_OPEN, the wire instruction code of the open command, 0x50 or 0x51. -/
  instrOpen : Byte
  /-- INSTR_STATUS_REQ, the wire instruction code of the status request. -/
  instrStatusReq : Byte
  /-- INSTR_STATUS_RESP, the wire instruction code of the status response. -/
  instrStatusResp : Byte
  /-- ADDRESS, the target board identifier of every outbound frame. -/
  address : Byte
  /-- BUF_CAP, the capacity of the reassembly buffer in bytes, at least 259. -/
  bufCap : Nat
  /-- SETTLE_TIME, the mandatory delay between consecutive hardware commands. -/
  settleTime : Nat
  /-- STATUS_TIMEOUT, the delay after which a status request times out, at least 1. -/
  statusTimeout : Nat
  /-- TIME_UNIT, the real duration of one unit of time, in seconds. No rule reads it (notes/assumptions/2.md). -/
  timeUnit : Rat
  deriving DecidableEq, Repr

/-- HDR0 is OPEN (R9, D1). -/
opaque Config.hdr0 : Byte
/-- HDR1 is OPEN (R9, D1). -/
opaque Config.hdr1 : Byte
/-- POLY is OPEN (R9, D2). -/
opaque Config.poly : Byte
/-- Which of the two codes INSTR_OPEN is: OPEN within {0x50, 0x51} (R9, D3). -/
opaque Config.openIs51 : Bool
/-- INSTR_STATUS_REQ is OPEN (R9, D3). -/
opaque Config.instrStatusReq : Byte
/-- INSTR_STATUS_RESP is OPEN (R9, D3). -/
opaque Config.instrStatusResp : Byte
/-- By how much BUF_CAP exceeds its least legal value: OPEN within BUF_CAP ≥ 259 (R9, D5). -/
opaque Config.bufCapAbove : Nat
/-- SETTLE_TIME is OPEN (R9, D13). -/
opaque Config.settleTime : Nat
/-- By how much STATUS_TIMEOUT exceeds its least legal value: OPEN within STATUS_TIMEOUT ≥ 1 (R9, D14). -/
opaque Config.statusTimeoutAbove : Nat
/-- TIME_UNIT is OPEN (R9, D12). -/
opaque Config.timeUnit : Rat

/-- The configuration the engine of `State.reset` is constructed with: the OPEN parameters free within their
constraints, ADDRESS at its one value 0 (R9, D11). -/
def Config.cfg : Cfg where
  hdr0 := Config.hdr0
  hdr1 := Config.hdr1
  poly := Config.poly
  instrOpen := if Config.openIs51 then 0x51#8 else 0x50#8
  instrStatusReq := Config.instrStatusReq
  instrStatusResp := Config.instrStatusResp
  address := 0#8
  bufCap := 259 + Config.bufCapAbove
  settleTime := Config.settleTime
  statusTimeout := 1 + Config.statusTimeoutAbove
  timeUnit := Config.timeUnit

end Sys2Proof
end

