-- ==== Sys2Proof/Syntax.lean ====
section
/-! DEFINITION. The syntax of the engine's operations, whole: one constructor of `Instr` for each of the 23 rows of
spec/opcode_table.json. R3: "instruction" means a wire instruction (a frame) or an operation (a host call, a
transport or timer event, an internal datapath operation); the table lists both. -/

namespace Sys2Proof

/-- An opaque value that the engine passes through unchanged and never examines: the `path` of `connect` and the
error detail of the transport (R88, D41). Held as a byte string (notes/assumptions/3.md). -/
abbrev OpaqueValue := Bytes

/-- The `result` operand of a transport completion: `Ok` or `Err(e)` (R88). -/
inductive TransportResult where
  | ok
  | err (e : OpaqueValue)
  deriving DecidableEq, Repr

/-- One constructor per row of the opcode table. -/
inductive Instr where
  -- wire instructions
  /-- OPEN, format F-OPEN (R77): the outbound open command for one cabinet ID. -/
  | openFrame (id : Byte)
  /-- STATUS_REQ, format F-SREQ (R78): the outbound status request. -/
  | statusReq
  /-- STATUS_RESP, format F-SRESP (R79): an inbound status response with LENGTH = 8 + the number of extra bytes. -/
  | statusResp (address s0 s1 s2 s3 s4 s5 : Byte) (extra : Bytes)
  /-- INBOUND_OTHER, format F-ANY (R80, R82): any other reassembled frame, all its bytes. -/
  | inboundOther (frame : Bytes)
  -- host events (R88)
  /-- CONNECT, selector 0x01 (R190, R191). -/
  | connect (path : OpaqueValue) (baudRate : Nat)
  /-- DISCONNECT, selector 0x02 (R194). -/
  | disconnect
  /-- OPEN_CABINETS, selector 0x03 (R199, R200). -/
  | openCabinets (ids : List Int)
  /-- GET_STATUS, selector 0x04 (R207, R208). -/
  | getStatus (requestFresh : Bool)
  /-- RESET_STATUS, selector 0x05 (R216). -/
  | resetStatus
  -- transport events (R88)
  /-- CONNECT_DONE, selector 0x10 (R192, R193, R217). -/
  | connectDone (result : TransportResult)
  /-- TX_DONE, selector 0x11 (R204, R205, R210, R217). -/
  | txDone (result : TransportResult)
  /-- RX, selector 0x12 (R211). -/
  | rx (chunk : Bytes)
  /-- LINE_LOST, selector 0x13 (R195). -/
  | lineLost
  -- timer event (R88)
  /-- TICK, selector 0x20 (R183, R215). -/
  | tick (t : Nat)
  -- internal datapath operations (R90): used inside events, never input from outside
  /-- ROUND (R101). -/
  | round
  /-- CK_INIT (R102). -/
  | ckInit
  /-- CK_BYTE (R103). -/
  | ckByte (b : Byte)
  /-- CHECKSUM (R104). -/
  | checksum (bs : Bytes)
  /-- BUILD (R121). -/
  | build (payload : Bytes) (address instruction : Byte)
  /-- VALIDATE (R124). -/
  | validate (f : Bytes)
  /-- HEXDUMP (R128). -/
  | hexdump (bs : Bytes)
  /-- REASSEMBLE (R141). -/
  | reassemble (chunk : Bytes)
  /-- DECODE_STATUS (R161). -/
  | decodeStatus (f : Bytes)
  deriving DecidableEq, Repr

/-- The ten kinds of input event (R88). -/
inductive EventKind where
  | connect | disconnect | openCabinets | getStatus | resetStatus
  | connectDone | txDone | rx | lineLost
  | tick
  deriving DecidableEq, Repr

/-- The three places an encoded instruction is read from: the engine's event input, a frame cut from the received
stream, a frame handed to the transport. -/
inductive Port where
  | event | inbound | outbound
  deriving DecidableEq, Repr

/-- An encoded instruction: its bytes and the place they are read from. The same bytes can be an event record and a
frame, since HDR0 is any byte. -/
structure Coded where
  port : Port
  bytes : Bytes
  deriving DecidableEq, Repr

/-- Why bytes are no instruction, by name. -/
inductive DecodeError where
  /-- An event record of no bytes. -/
  | emptyRecord
  /-- A selector that is none of the ten of R88. -/
  | unknownSelector (b : Byte)
  /-- The record ends inside an operand. -/
  | truncatedOperand
  /-- The byte of a Bool operand is neither 0 nor 1. -/
  | badBool (b : Byte)
  /-- The first byte of a result operand is neither 0 (Ok) nor 1 (Err). -/
  | badResult (b : Byte)
  /-- Bytes other than zero follow the last operand. -/
  | trailingBytes
  /-- No frame: shorter than 4 bytes, another header, or a length other than LENGTH + 4 (R70, R72). -/
  | notAFrame
  /-- An outbound frame whose trailing byte is not its checksum (R76). -/
  | badChecksum
  /-- An outbound frame whose ADDRESS is not CFG.ADDRESS (R73). -/
  | foreignAddress
  /-- A frame of neither of the two outbound formats (R83). -/
  | notOutbound
  deriving DecidableEq, Repr

end Sys2Proof
end

