-- ==== Sys2Proof/Machine/Datapath.lean ====
section
/-! DEFINITION. The pure functions of the datapath: the Checksum Unit's rounds (spec/40_checksum.md), the Frame
Codec's frame construction, validation and hex dump (spec/41_frame_codec.md), and the fields of a frame
(spec/30_encoding.md). The machine's operations and the decoder both call them, so each is said once. -/

namespace Sys2Proof

/-! Checksum Unit -/

/-- ROUND (R101): test bit 0, shift right, XOR with POLY when the bit was 1. The mask `& 0xFF` of the rule is the
width of the type. -/
def roundFn (poly acc : Byte) : Byte :=
  if acc.getLsbD 0 then (acc >>> 1) ^^^ poly else acc >>> 1

/-- `n` rounds. -/
def rounds (poly : Byte) : Nat → Byte → Byte
  | 0, acc => acc
  | n + 1, acc => rounds poly n (roundFn poly acc)

/-- CK_BYTE (R103): XOR the byte into the accumulator once, then eight rounds. -/
def ckByteFn (poly acc b : Byte) : Byte :=
  rounds poly 8 (acc ^^^ b)

/-- CHECKSUM (R104): from CK_INIT's 0 (R102), every byte in index order. -/
def checksumFn (poly : Byte) (bs : Bytes) : Byte :=
  bs.foldl (ckByteFn poly) 0#8

/-! Fields of a frame (R70, R87) -/

/-- Byte `i` of a frame; 0 past its end, which no frame of at least 4 bytes and `LENGTH + 4` bytes reaches for the
fields below. -/
def byteAt (f : Bytes) (i : Nat) : Byte := f.getD i 0#8

/-- LENGTH, the byte at offset 2 (R72). -/
def frameLength (f : Bytes) : Nat := (byteAt f 2).toNat

/-- ADDRESS, the byte at offset 3 (R73). -/
def frameAddress (f : Bytes) : Byte := byteAt f 3

/-- INSTRUCTION, the byte at offset 4 (R74); it is that only when LENGTH ≥ 2 (R87). -/
def frameInstruction (f : Bytes) : Byte := byteAt f 4

/-- The shape every frame has (R70, R72): at least 4 bytes, the header sentinel, LENGTH + 4 bytes in all. -/
def isFrame (c : Cfg) (f : Bytes) : Bool :=
  decide (4 ≤ f.length) && byteAt f 0 == c.hdr0 && byteAt f 1 == c.hdr1 && f.length == frameLength f + 4

/-! Frame Codec -/

/-- The bytes a frame's checksum covers (R76): everything before it, the header included. -/
def frameBody (c : Cfg) (payload : Bytes) (address instruction : Byte) : Bytes :=
  [c.hdr0, c.hdr1, BitVec.ofNat 8 (2 + payload.length), address, instruction] ++ payload

/-- A sequence with its checksum appended. -/
def sealFrame (poly : Byte) (body : Bytes) : Bytes := body ++ [checksumFn poly body]

/-- BUILD (R121), `none` for its refusal of a payload longer than 253 bytes (R122). -/
def buildFn (c : Cfg) (payload : Bytes) (address instruction : Byte) : Option Bytes :=
  if 253 < payload.length then none
  else some (sealFrame c.poly (frameBody c payload address instruction))

/-- VALIDATE (R124): False on the empty sequence (D33), else whether the last byte is the checksum of the others. -/
def validateFn (poly : Byte) (f : Bytes) : Bool :=
  match f.getLast? with
  | none => false
  | some k => checksumFn poly f.dropLast == k

/-- One uppercase hex digit. -/
def hexDigit (n : Nat) : Char :=
  ['0', '1', '2', '3', '4', '5', '6', '7', '8', '9', 'A', 'B', 'C', 'D', 'E', 'F'].getD n '0'

/-- `upperhex2` (R128): exactly two uppercase hex digits. -/
def upperhex2 (b : Byte) : Text := [hexDigit (b.toNat / 16), hexDigit (b.toNat % 16)]

/-- HEXDUMP (R128): the pairs joined by one space, no space at either end, the empty text for no bytes (D29). -/
def hexdumpFn : Bytes → Text
  | [] => []
  | [b] => upperhex2 b
  | b :: b' :: rest => upperhex2 b ++ ' ' :: hexdumpFn (b' :: rest)

/-! Frames as the engine classifies and assembles them -/

/-- A status response (R79, R80 check (3)): a valid frame with LENGTH ≥ 8 and INSTRUCTION = INSTR_STATUS_RESP. -/
def isStatusResponse (c : Cfg) (f : Bytes) : Bool :=
  validateFn c.poly f && decide (8 ≤ frameLength f) && frameInstruction f == c.instrStatusResp

/-- The bytes of a status response before its checksum (R79). -/
def statusRespBody (c : Cfg) (address s0 s1 s2 s3 s4 s5 : Byte) (extra : Bytes) : Bytes :=
  [c.hdr0, c.hdr1, BitVec.ofNat 8 (8 + extra.length), address, c.instrStatusResp, s0, s1, s2, s3, s4, s5] ++ extra

/-- The bytes of a STATUS_RESP frame (F-SRESP, R79). -/
def statusRespFrame (c : Cfg) (address s0 s1 s2 s3 s4 s5 : Byte) (extra : Bytes) : Bytes :=
  sealFrame c.poly (statusRespBody c address s0 s1 s2 s3 s4 s5 extra)

end Sys2Proof
end

