-- ==== Sys2Proof/Machine/Flags.lean ====
section
/-! DEFINITION. The engine's one status flag, CFG_COLLISION (R37), and the constraints of CFG (R9, R40). The engine
has no condition codes and no sticky flags (R38). -/

namespace Sys2Proof

/-- CFG_COLLISION (R37): (INSTR_OPEN = INSTR_STATUS_REQ) OR (INSTR_OPEN = INSTR_STATUS_RESP). -/
def Cfg.collision (c : Cfg) : Bool :=
  c.instrOpen == c.instrStatusReq || c.instrOpen == c.instrStatusResp

/-- The constraints of the table of R9: BUF_CAP ≥ 259, INSTR_OPEN ∈ {0x50, 0x51}, STATUS_TIMEOUT ≥ 1. A CFG that
violates one is refused at construction (R40, R270, D38). -/
def Cfg.valid (c : Cfg) : Bool :=
  decide (259 ≤ c.bufCap) && (c.instrOpen == 0x50#8 || c.instrOpen == 0x51#8) && decide (1 ≤ c.statusTimeout)

end Sys2Proof
end

