-- ==== Sys2Proof/Machine/State.lean ====
section
/-! DEFINITION. The state of the engine (spec/10_state.md), as plain data, with its reset value (R43, R270); the
values that its output stream carries (R89, R222, R241, R246); the reasons a step can stop. -/

namespace Sys2Proof.Machine

open Sys2Proof

/-- ConnectionState (R19). -/
inductive ConnState where
  | disconnected | connecting | connected | faulted
  deriving DecidableEq, Repr

/-- The state of a cabinet (R18). -/
inductive CabState where
  | opened | available | unavailable
  deriving DecidableEq, Repr

/-- CabinetStatus (R18). -/
structure CabinetStatus where
  id : Byte
  state : CabState
  lastUpdatedAt : Nat
  deriving DecidableEq, Repr

/-- MAP (R26): the present entries of the cabinet status map, keyed by cabinet ID in strictly rising order; an ID
that is not listed reads as `None`. -/
abbrev CabinetMap := List (Nat × CabinetStatus)

/-! Error values (R241) -/

/-- What a StructuralInputError records. -/
inductive StructuralError where
  | empty
  | outOfRange (v : Int)
  deriving DecidableEq, Repr

/-- What a TransportError records: the transport's error, or `NotConnected`. -/
inductive TransportFault where
  | notConnected
  | transport (e : OpaqueValue)
  deriving DecidableEq, Repr

/-- What a ConnectError records. -/
inductive ConnectError where
  | alreadyConnected
  | aborted
  | transport (e : OpaqueValue)
  deriving DecidableEq, Repr

/-- An error value: one constructor per row of the table of R241, with what it records. -/
inductive ErrorValue where
  | structuralInput (v : StructuralError)
  | transport (v : TransportFault)
  | checksumMismatch (hex : Text)
  | frameTimeout
  | bufferOverflow (n : Nat)
  | connect (v : ConnectError)
  deriving DecidableEq, Repr

/-! Jobs (R30) -/

/-- CabinetOpenResult (R30). -/
structure CabinetOpenResult where
  id : Byte
  openedAt : Nat
  deriving DecidableEq, Repr

/-- CabinetFailResult (R30). -/
structure CabinetFailResult where
  id : Byte
  error : ErrorValue
  deriving DecidableEq, Repr

/-- The phase of an open job (R31). -/
inductive OpenPhase where
  | ready | awaitTx
  deriving DecidableEq, Repr

/-- The phase of a status job (R32). -/
inductive StatusPhase where
  | ready | awaitTx | awaiting
  deriving DecidableEq, Repr

/-- OpenJob (R30, R31). -/
structure OpenJob where
  ticket : Nat
  ids : Bytes
  k : Nat
  opened : List CabinetOpenResult
  failed : List CabinetFailResult
  phase : OpenPhase
  deriving DecidableEq, Repr

/-- StatusJob (R30, R32). -/
structure StatusJob where
  ticket : Nat
  phase : StatusPhase
  deadline : Option Nat
  respSeen : Bool
  deriving DecidableEq, Repr

/-- A job (R30). -/
inductive Job where
  | openJob (j : OpenJob)
  | statusJob (j : StatusJob)
  deriving DecidableEq, Repr

/-! Outputs (R89) -/

/-- Freshness of a `getStatus` result (R221). -/
inductive Freshness where
  | fresh | timedOut | notConnected
  | transportError (e : OpaqueValue)
  | notRequested
  deriving DecidableEq, Repr

/-- The value of a `Response` (R222). -/
inductive ResponseValue where
  /-- `Ok(Connected)`, of `connect`. -/
  | connectedOk
  /-- `ConnectError(..)`, of `connect`. -/
  | connectError (e : ConnectError)
  /-- `Ok`, of `disconnect` and `resetStatus`. -/
  | ok
  /-- `StructuralInputError(..)`, of `openCabinets`. -/
  | structuralInputError (e : StructuralError)
  /-- `{opened, failed}`, of `openCabinets`. -/
  | openResult (opened : List CabinetOpenResult) (failed : List CabinetFailResult)
  /-- `{connected, cabinets, freshness}`, of `getStatus`. -/
  | status (connected : Bool) (cabinets : List CabinetStatus) (freshness : Freshness)
  deriving DecidableEq, Repr

/-- The completion event a `SpuriousTransportEvent` names (R217). -/
inductive SpuriousKind where
  | connectDone | txDone
  deriving DecidableEq, Repr

/-- Diagnostic signals (R246). -/
inductive Diag where
  | checksumMismatch (hex : Text)
  | frameTimeout
  | bufferOverflow (n : Nat)
  | resyncDrop (b : Byte)
  | unrecognizedFrame (hex : Text)
  | unrecognizedInstruction (code : Byte)
  | shortStatus (hex : Text)
  | lineLost
  | spuriousTransportEvent (kind : SpuriousKind)
  | configCollision (instrOpen instrStatusReq instrStatusResp : Byte)
  deriving DecidableEq, Repr

/-- Output events (R89). -/
inductive Output where
  | txFrame (bytes : Bytes)
  | openPort (path : OpaqueValue) (baudRate : Nat)
  | closePort
  | response (ticket : Nat) (value : ResponseValue)
  | frame (bytes : Bytes) (valid : Bool)
  | diag (d : Diag)
  deriving DecidableEq, Repr

/-- What an internal operation returned when it is run by itself (R90): the model's own place to read a result
(notes/assumptions/6.md). -/
inductive Returned where
  | none
  | byte (b : Byte)
  | frame (f : Bytes)
  | bool (b : Bool)
  | text (t : Text)
  | frames (fs : List (Bytes × Bool))
  | statuses (d : Option (List (Byte × CabState)))
  deriving DecidableEq, Repr

/-! State -/

/-- The state of one engine. The fields up to `connectTicket` are the spec's; `inbox`, `out` and `ret` are the
model's own (notes/assumptions/5.md, 6.md). CFG_COLLISION (R37) is `Cfg.collision` of `cfg`: it is stored once. -/
structure State where
  /-- CFG (R9, R39), the control registers, read-only after construction. -/
  cfg : Cfg
  /-- ACC (R22), the accumulator of the Checksum Unit. -/
  acc : Byte
  /-- CONN (R25). -/
  conn : ConnState
  /-- MAP (R26). -/
  cabMap : CabinetMap
  /-- RXBUF (R27), index 0 the oldest buffered byte. -/
  rxbuf : Bytes
  /-- QUEUE (R28), the head first. -/
  queue : List Job
  /-- ACTIVE (R29). -/
  active : Option Job
  /-- NOW (R33). -/
  now : Nat
  /-- NEXT_TICKET (R34). -/
  nextTicket : Nat
  /-- NEXT_SEND_AT (R35). -/
  nextSendAt : Nat
  /-- CONNECT_TICKET (R36). -/
  connectTicket : Option Nat
  /-- The events the environment has presented and the engine has not yet taken (R15, R61), as records, the next
  one first. -/
  inbox : List Bytes
  /-- The output stream (R14, R89), the oldest output first. -/
  out : List Output
  /-- The result of the last internal operation run by itself. -/
  ret : Returned
  deriving DecidableEq, Repr

/-- The engine has no fault outcome: "No condition stops the engine" (R240). -/
inductive Fault where
  deriving DecidableEq, Repr

/-- Why a step has no next state. -/
inductive Refusal where
  /-- Raised by `exec` for an instruction that has no meaning yet; safe. -/
  | notModelled (mnemonic : String)
  /-- Raised by BUILD for a payload longer than 253 bytes: "a model returns a refusal (BuildRefused)" (R122); safe. -/
  | buildRefused
  /-- Raised by `step` for a pending record that is no event of R88; safe. -/
  | undecodable (e : DecodeError)
  /-- Raised by construction for a CFG that violates a constraint of R9: "refused and no engine exists" (R270);
  safe. -/
  | configRefused
  deriving DecidableEq, Repr

/-- The state after construction with `c` (R43, R270). The first output reports a collision of the instruction codes,
when there is one (R271). -/
def State.constructed (c : Cfg) : State where
  cfg := c
  acc := 0#8
  conn := .disconnected
  cabMap := []
  rxbuf := []
  queue := []
  active := none
  now := 0
  nextTicket := 0
  nextSendAt := 0
  connectTicket := none
  inbox := []
  out := if c.collision then [.diag (.configCollision c.instrOpen c.instrStatusReq c.instrStatusResp)] else []
  ret := .none

/-- The engine right after its only reset, construction (R270), with the configuration `Config.cfg`. -/
def State.reset : State := State.constructed Config.cfg

end Sys2Proof.Machine
end

