-- ==== Sys2Proof/Machine/Ops.lean ====
section
/-! DEFINITION. The named operations over the state: outputs (R14), tickets (R182), the connection, the buffer
primitives (R51), the map primitives (R52), the pacing register and the active job.

The engine takes no exception: "No condition stops the engine, redirects control or saves state for a handler" (R240).
What stands in an exception's place are the two operations of R14: `respond` with an error value, the spec's `raise`,
which ends the host call with the error and changes nothing else, and `signal`, which emits a diagnostic and
continues (R246). -/

namespace Sys2Proof.Machine

open Sys2Proof

/-! Outputs -/

/-- `emit` (R14): one output event at the end of the output stream. -/
def State.emit (s : State) (o : Output) : State := { s with out := s.out ++ [o] }

/-- `signal` (R14, R246): a diagnostic output event; no state changes. -/
def State.signal (s : State) (d : Diag) : State := s.emit (.diag d)

/-- The result of a host call (R180, R182), an error result among them (`raise`, R14). -/
def State.respond (s : State) (ticket : Nat) (v : ResponseValue) : State := s.emit (.response ticket v)

/-! Tickets -/

/-- NEXT_TICKET <- NEXT_TICKET + 1 (R182). The call's ticket is the value before. -/
def State.takeTicket (s : State) : State := { s with nextTicket := s.nextTicket + 1 }

/-! Connection registers -/

/-- CONN <- c. -/
def State.setConn (s : State) (c : ConnState) : State := { s with conn := c }

/-- CONNECT_TICKET <- t. -/
def State.setConnectTicket (s : State) (t : Option Nat) : State := { s with connectTicket := t }

/-- The answer to the pending `connect` call: `emit Response(CONNECT_TICKET, v); CONNECT_TICKET <- None`
(R192, R193, R194). Without a pending call, which I5 of R44 excludes, nothing. -/
def State.answerConnect (s : State) (v : ResponseValue) : State :=
  match s.connectTicket with
  | none => s
  | some t => (s.respond t v).setConnectTicket none

/-! Buffer primitives (R51) -/

/-- BufLen(). -/
def State.bufLen (s : State) : Nat := s.rxbuf.length

/-- BufRead(i), defined for i < len(RXBUF). -/
def State.bufRead (s : State) (i : Nat) : Byte := byteAt s.rxbuf i

/-- RXBUF[0 : n], the slice of a candidate frame (R146). -/
def State.bufSlice (s : State) (n : Nat) : Bytes := s.rxbuf.take n

/-- BufAppend(bs). -/
def State.bufAppend (s : State) (bs : Bytes) : State := { s with rxbuf := s.rxbuf ++ bs }

/-- BufDrop(n), defined for n ≤ len(RXBUF). -/
def State.bufDrop (s : State) (n : Nat) : State := { s with rxbuf := s.rxbuf.drop n }

/-- BufClear(). -/
def State.bufClear (s : State) : State := { s with rxbuf := [] }

/-! Map primitives (R52) -/

/-- The entry for an ID, `None` when absent. -/
def CabinetMap.get (m : CabinetMap) (id : Nat) : Option CabinetStatus :=
  match m with
  | [] => none
  | (k, st) :: rest => if k = id then some st else CabinetMap.get rest id

/-- The map with the entry for an ID overwritten, in rising order of IDs. -/
def CabinetMap.put (m : CabinetMap) (id : Nat) (v : CabinetStatus) : CabinetMap :=
  match m with
  | [] => [(id, v)]
  | (k, st) :: rest =>
    if id < k then (id, v) :: (k, st) :: rest
    else if id = k then (id, v) :: rest
    else (k, st) :: CabinetMap.put rest id v

/-- The canonical form of the map: IDs strictly rising and at most 255 (R26). -/
def Memory.wf (m : CabinetMap) : Bool :=
  decide (m.Pairwise fun a b => a.1 < b.1) && m.all fun e => decide (e.1 < 256)

/-- `Map[id]`. -/
def State.mapGet (s : State) (id : Byte) : Option CabinetStatus := s.cabMap.get id.toNat

/-- `Map[id] <- { id, state, lastUpdatedAt = NOW }` (R204, R212). -/
def State.mapMark (s : State) (id : Byte) (st : CabState) : State :=
  { s with cabMap := s.cabMap.put id.toNat { id := id, state := st, lastUpdatedAt := s.now } }

/-- MapClear(). -/
def State.mapClear (s : State) : State := { s with cabMap := [] }

/-- Snapshot() (R214): every present entry in ascending ID order. -/
def State.snapshot (s : State) : List CabinetStatus := s.cabMap.map Prod.snd

/-! Pacing and jobs -/

/-- NEXT_SEND_AT <- NOW + SETTLE_TIME (R198). -/
def State.settle (s : State) : State := { s with nextSendAt := s.now + s.cfg.settleTime }

/-- ACTIVE <- j. -/
def State.setActive (s : State) (j : Option Job) : State := { s with active := j }

/-- push_back(QUEUE, j). -/
def State.enqueue (s : State) (j : Job) : State := { s with queue := s.queue ++ [j] }

/-- ACC <- a. -/
def State.setAcc (s : State) (a : Byte) : State := { s with acc := a }

/-- The result of an internal operation run by itself (notes/assumptions/6.md). -/
def State.setRet (s : State) (r : Returned) : State := { s with ret := r }

/-- NOW <- t when t > NOW (R183). -/
def State.advanceTime (s : State) (t : Nat) : State := if s.now < t then { s with now := t } else s

end Sys2Proof.Machine
end

