-- ==== Sys2Proof/Machine/Checksum.lean ====
section
/-! DEFINITION. The Checksum Unit (spec/40_checksum.md) over its one register ACC. -/

namespace Sys2Proof.Machine

open Sys2Proof

/-- CHECKSUM(bs) (R104), its one effect on the state: ACC (R100). The result is the ACC it leaves. -/
def State.runChecksum (s : State) (bs : Bytes) : State := s.setAcc (checksumFn s.cfg.poly bs)

/-- ROUND (R101). -/
def execRound (s : State) : Host.Outcome State Fault Refusal :=
  .next (s.setAcc (roundFn s.cfg.poly s.acc))

/-- CK_INIT (R102). -/
def execCkInit (s : State) : Host.Outcome State Fault Refusal :=
  .next (s.setAcc 0#8)

/-- CK_BYTE(b) (R103). -/
def execCkByte (b : Byte) (s : State) : Host.Outcome State Fault Refusal :=
  .next (s.setAcc (ckByteFn s.cfg.poly s.acc b))

/-- CHECKSUM(bs) (R104): returns ACC. -/
def execChecksum (bs : Bytes) (s : State) : Host.Outcome State Fault Refusal :=
  .next ((s.runChecksum bs).setRet (.byte (checksumFn s.cfg.poly bs)))

end Sys2Proof.Machine
end

