-- ==== Sys2Proof/Machine/Codec.lean ====
section
/-! DEFINITION. The Frame Codec (spec/41_frame_codec.md). It holds no state (R23); its checksums run in the Checksum
Unit and so leave their result in ACC (R100, notes/assumptions/7.md). -/

namespace Sys2Proof.Machine

open Sys2Proof

/-- VALIDATE(f) (R124), its effect on the state: the checksum of all bytes but the last runs, unless f is empty. -/
def State.runValidate (s : State) (f : Bytes) : State :=
  if f.isEmpty then s else s.runChecksum f.dropLast

/-- The write of a frame the controller builds (R129): `emit TxFrame(BUILD(payload, ADDRESS, instruction))`. A refused
BUILD writes no byte (R122); the controller's payloads have at most one byte. -/
def State.writeFrame (s : State) (payload : Bytes) (instruction : Byte) : State :=
  match buildFn s.cfg payload s.cfg.address instruction with
  | none => s
  | some f => (s.runChecksum (frameBody s.cfg payload s.cfg.address instruction)).emit (.txFrame f)

/-- BUILD(payload, address, instruction) (R121), refused for a payload longer than 253 bytes (R122). -/
def execBuild (payload : Bytes) (address instruction : Byte) (s : State) : Host.Outcome State Fault Refusal :=
  match buildFn s.cfg payload address instruction with
  | none => .refused .buildRefused
  | some f => .next ((s.runChecksum (frameBody s.cfg payload address instruction)).setRet (.frame f))

/-- VALIDATE(f) (R124). -/
def execValidate (f : Bytes) (s : State) : Host.Outcome State Fault Refusal :=
  .next ((s.runValidate f).setRet (.bool (validateFn s.cfg.poly f)))

/-- HEXDUMP(bs) (R128). -/
def execHexdump (bs : Bytes) (s : State) : Host.Outcome State Fault Refusal :=
  .next (s.setRet (.text (hexdumpFn bs)))

end Sys2Proof.Machine
end

