-- ==== Sys2Proof/Machine/StatusDecoder.lean ====
section
/-! DEFINITION. The Status Decoder (spec/43_status_decoder.md). It holds no state (R23). -/

namespace Sys2Proof.Machine

open Sys2Proof

/-- The state a status bit stands for (R161): 1 is Available, 0 Unavailable. -/
def bitState (bit : Bool) : CabState := if bit then .available else .unavailable

/-- DECODE_STATUS(f) (R161): `None` when the declared length is below 8 (R162) or the instruction is not
INSTR_STATUS_RESP (R163), else 48 pairs, IDs 0 to 47 ascending. A sequence that ends before its sixth status byte, which
no frame with LENGTH ≥ 8 does, is too short (R160). -/
def decodeStatusFn (c : Cfg) (f : Bytes) : Option (List (Byte × CabState)) :=
  if frameLength f < 8 then none
  else if frameInstruction f ≠ c.instrStatusResp then none
  else if f.length < 11 then none
  else some ((List.range 6).flatMap fun j =>
    (List.range 8).map fun i => (BitVec.ofNat 8 (j * 8 + i), bitState ((byteAt f (5 + j)).getLsbD i)))

/-- DECODE_STATUS(f) run by itself. -/
def execDecodeStatus (f : Bytes) (s : State) : Host.Outcome State Fault Refusal :=
  .next (s.setRet (.statuses (decodeStatusFn s.cfg f)))

end Sys2Proof.Machine
end

