-- ==== Sys2Proof/Machine/Jobs.lean ====
section
/-! DEFINITION. Job scheduling (spec/44_controller.md sections 3 to 5): resolution of a status job, the job steps, and
Advance(). -/

namespace Sys2Proof.Machine

open Sys2Proof

/-- The value of a `getStatus` response (R207, R213): `{connected = (CONN = Connected), cabinets = Snapshot(), freshness}`. -/
def State.statusReport (s : State) (f : Freshness) : ResponseValue :=
  .status (decide (s.conn = .connected)) s.snapshot f

/-- Resolve(freshness) (R213) of the active status job `j`. Its deadline goes with it. -/
def resolve (j : StatusJob) (f : Freshness) (s : State) : State :=
  (s.respond j.ticket (s.statusReport f)).setActive none

/-- Whether a job is in phase Ready. -/
def Job.isReady : Job → Bool
  | .openJob j => j.phase == .ready
  | .statusJob j => j.phase == .ready

/-- Whether a job is in phase AwaitTx: its write is outstanding at the transport (R31, R32). -/
def Job.isAwaitTx : Job → Bool
  | .openJob j => j.phase == .awaitTx
  | .statusJob j => j.phase == .awaitTx

/-- Open job step, batch finished (R201). -/
def finishOpen (j : OpenJob) (s : State) : State :=
  (s.respond j.ticket (.openResult j.opened j.failed)).setActive none

/-- An open job after its current ID has failed (R202, R205). -/
def OpenJob.fail (j : OpenJob) (id : Byte) (e : TransportFault) : OpenJob :=
  { j with failed := j.failed ++ [{ id := id, error := .transport e }], k := j.k + 1, phase := .ready }

/-- An open job after its current ID has been opened (R204). -/
def OpenJob.succeed (j : OpenJob) (id : Byte) (now : Nat) : OpenJob :=
  { j with opened := j.opened ++ [{ id := id, openedAt := now }], k := j.k + 1, phase := .ready }

/-- Open job step for the current ID (R202, R203): the state and whether the job progressed. -/
def sendOpen (j : OpenJob) (id : Byte) (s : State) : State × Bool :=
  if s.now < s.nextSendAt then (s, false)
  else if s.conn ≠ .connected then
    ((s.setActive (some (.openJob (j.fail id .notConnected)))).settle, true)
  else
    ((s.writeFrame [id] s.cfg.instrOpen).setActive (some (.openJob { j with phase := .awaitTx })), false)

/-- Status job step (R209): the state and whether the job progressed. -/
def sendStatusReq (j : StatusJob) (s : State) : State × Bool :=
  if s.now < s.nextSendAt then (s, false)
  else if s.conn ≠ .connected then (resolve j .notConnected s.settle, true)
  else
    ((s.writeFrame [] s.cfg.instrStatusReq).setActive (some (.statusJob { j with phase := .awaitTx })), false)

/-- JobStep (R196) of a job in phase Ready. -/
def jobStep (j : Job) (s : State) : State × Bool :=
  match j with
  | .openJob o => match o.ids[o.k]? with
    | none => (finishOpen o s, true)
    | some id => sendOpen o id s
  | .statusJob t => sendStatusReq t s

/-- The start of the next queued job when none is active (R196, R197). -/
def dequeue (s : State) : State :=
  match s.active, s.queue with
  | none, j :: rest => { s with active := some j, queue := rest }
  | _, _ => s

/-- The loop of Advance() (R196), at most `fuel` passes. -/
def advanceLoop : Nat → State → State
  | 0, s => s
  | fuel + 1, s =>
    match (dequeue s).active with
    | none => dequeue s
    | some j =>
      if j.isReady then
        if (jobStep j (dequeue s)).2 then advanceLoop fuel (jobStep j (dequeue s)).1
        else (jobStep j (dequeue s)).1
      else dequeue s

/-- How many steps a job can still make without input: one for each ID left and one to finish, or one to resolve. -/
def Job.work : Job → Nat
  | .openJob j => j.ids.length - j.k + 1
  | .statusJob _ => 1

/-- How many job steps the active and the queued jobs can make without input. -/
def State.work (s : State) : Nat :=
  (match s.active with | none => 0 | some j => j.work) + (s.queue.map Job.work).sum

/-- Advance() (R196): "runs the active job as far as it can go without input, then starts the next queued job". Every
pass but the last takes one from `work`, so the fuel lasts. -/
def advance (s : State) : State := advanceLoop (s.work + 1) s

end Sys2Proof.Machine
end

