-- ==== Sys2Proof/Machine/Operands.lean ====
section
/-! DEFINITION. Operands: what the engine takes from the operands of a host call (R86, R199, R200). The operands of
inbound frames are the fields of `Machine/Datapath.lean` (R87). -/

namespace Sys2Proof.Machine

open Sys2Proof

/-- Whether an integer is a cabinet ID (R199): 0 ≤ v ≤ 255. -/
def isCabinetId (v : Int) : Bool := decide (0 ≤ v) && decide (v ≤ 255)

/-- `ValidIds` (R199). -/
def validIds (ids : List Int) : Bool := !ids.isEmpty && ids.all isCabinetId

/-- The structural error of a batch, the first failure only (R200, R251): emptiness, then the range of each element in
list order. -/
def structuralError (ids : List Int) : Option StructuralError :=
  if ids.isEmpty then some .empty
  else match ids.find? fun v => !isCabinetId v with
    | some v => some (.outOfRange v)
    | none => none

/-- The byte of a validated ID (R86): "taken from the host's integer v ... as the byte v". -/
def idByte (v : Int) : Byte := BitVec.ofInt 8 v

end Sys2Proof.Machine
end

