-- ==== Sys2Proof/Machine/HostCalls.lean ====
section
/-! DEFINITION. The five host calls (R180), each one event: the ticket, the operation, Advance() (R181, R182, R250). -/

namespace Sys2Proof.Machine

open Sys2Proof

/-- connect (R190, R191) for the call with ticket `t`. -/
def onConnect (path : OpaqueValue) (baudRate : Nat) (t : Nat) (s : State) : State :=
  if s.conn = .disconnected ∨ s.conn = .faulted then
    ((s.setConn .connecting).setConnectTicket (some t)).emit (.openPort path baudRate)
  else s.respond t (.connectError .alreadyConnected)

/-- disconnect (R194). -/
def onDisconnect (t : Nat) (s : State) : State :=
  let s1 := if s.conn = .connecting then s.answerConnect (.connectError .aborted) else s
  ((s1.setConn .disconnected).emit .closePort).respond t .ok

/-- openCabinets (R200). -/
def onOpenCabinets (ids : List Int) (t : Nat) (s : State) : State :=
  match structuralError ids with
  | some e => s.respond t (.structuralInputError e)
  | none => s.enqueue (.openJob
      { ticket := t, ids := ids.map idByte, k := 0, opened := [], failed := [], phase := .ready })

/-- getStatus (R207, R208). -/
def onGetStatus (requestFresh : Bool) (t : Nat) (s : State) : State :=
  if requestFresh then
    s.enqueue (.statusJob { ticket := t, phase := .ready, deadline := none, respSeen := false })
  else s.respond t (s.statusReport .notRequested)

/-- resetStatus (R216). -/
def onResetStatus (t : Nat) (s : State) : State := s.mapClear.respond t .ok

/-- CONNECT. -/
def execConnect (path : OpaqueValue) (baudRate : Nat) (s : State) : Host.Outcome State Fault Refusal :=
  .next (advance (onConnect path baudRate s.nextTicket s.takeTicket))

/-- DISCONNECT. -/
def execDisconnect (s : State) : Host.Outcome State Fault Refusal :=
  .next (advance (onDisconnect s.nextTicket s.takeTicket))

/-- OPEN_CABINETS. -/
def execOpenCabinets (ids : List Int) (s : State) : Host.Outcome State Fault Refusal :=
  .next (advance (onOpenCabinets ids s.nextTicket s.takeTicket))

/-- GET_STATUS. -/
def execGetStatus (requestFresh : Bool) (s : State) : Host.Outcome State Fault Refusal :=
  .next (advance (onGetStatus requestFresh s.nextTicket s.takeTicket))

/-- RESET_STATUS. -/
def execResetStatus (s : State) : Host.Outcome State Fault Refusal :=
  .next (advance (onResetStatus s.nextTicket s.takeTicket))

end Sys2Proof.Machine
end

