-- ==== Sys2Proof/Machine/Timer.lean ====
section
/-! DEFINITION. The timer event (R183, R215), followed by Advance() (R181, R250). -/

namespace Sys2Proof.Machine

open Sys2Proof

/-- Whether a status job's armed deadline has come (R215). -/
def StatusJob.expired (j : StatusJob) (now : Nat) : Bool :=
  match j.phase, j.deadline with
  | .awaiting, some d => decide (d ≤ now)
  | _, _ => false

/-- The timeout check (R215). -/
def checkTimeout (s : State) : State :=
  match s.active with
  | some (.statusJob j) =>
    if j.expired s.now then resolve j .timedOut (s.signal .frameTimeout) else s
  | _ => s

/-- Tick(t) (R183): the time, then the timeout check. -/
def onTick (t : Nat) (s : State) : State := checkTimeout (s.advanceTime t)

/-- TICK. -/
def execTick (t : Nat) (s : State) : Host.Outcome State Fault Refusal :=
  .next (advance (onTick t s))

end Sys2Proof.Machine
end

