-- ==== Sys2Proof/Machine/Reassembler.lean ====
section
/-! DEFINITION. The Frame Reassembler (spec/42_reassembler.md): the loop of R141 over RXBUF, with desynchronisation
policy (a) (R144). -/

namespace Sys2Proof.Machine

open Sys2Proof

/-- The loop of REASSEMBLE (R141, steps 2 to 7), at most `fuel` passes: the state it leaves and the frames it cuts, in
stream order, each with its validity. -/
def reassembleLoop : Nat → State → State × List (Bytes × Bool)
  | 0, s => (s, [])
  | fuel + 1, s =>
    if s.bufLen < 4 then (s, [])
    else if s.bufRead 0 ≠ s.cfg.hdr0 ∨ s.bufRead 1 ≠ s.cfg.hdr1 then
      reassembleLoop fuel ((s.signal (.resyncDrop (s.bufRead 0))).bufDrop 1)
    else if s.bufLen < (s.bufRead 2).toNat + 4 then (s, [])
    else
      let cand := s.bufSlice ((s.bufRead 2).toNat + 4)
      let r := reassembleLoop fuel ((s.bufDrop ((s.bufRead 2).toNat + 4)).runValidate cand)
      (r.1, (cand, validateFn s.cfg.poly cand) :: r.2)

/-- REASSEMBLE(chunk) (R141). An overflow clears the buffer and discards the chunk (R142). The loop ends within
len(RXBUF) passes and one more (R149). -/
def reassemble (chunk : Bytes) (s : State) : State × List (Bytes × Bool) :=
  if s.cfg.bufCap < s.bufLen + chunk.length then
    ((s.signal (.bufferOverflow (s.bufLen + chunk.length))).bufClear, [])
  else
    reassembleLoop ((s.bufAppend chunk).bufLen + 1) (s.bufAppend chunk)

/-- REASSEMBLE(chunk) run by itself: returns the list of (frame, valid) pairs. -/
def execReassemble (chunk : Bytes) (s : State) : Host.Outcome State Fault Refusal :=
  .next ((reassemble chunk s).1.setRet (.frames (reassemble chunk s).2))

end Sys2Proof.Machine
end

