-- ==== Sys2Proof/Machine/Inbound.lean ====
section
/-! DEFINITION. Inbound byte handling (spec/44_controller.md section 6): the merge of a status response and the
classification of a frame (R80, R211). -/

namespace Sys2Proof.Machine

open Sys2Proof

/-- What a merged response does to the active job (R212): an Awaiting status job resolves Fresh, an AwaitTx one
remembers the response (D15). -/
def noteResponse (s : State) : State :=
  match s.active with
  | some (.statusJob j) => match j.phase with
    | .ready => s
    | .awaitTx => s.setActive (some (.statusJob { j with respSeen := true }))
    | .awaiting => resolve j .fresh s
  | _ => s

/-- Merge(d) (R212). -/
def merge (d : List (Byte × CabState)) (s : State) : State :=
  noteResponse (d.foldl (fun t p => t.mapMark p.1 p.2) s)

/-- One reassembled frame and its validity (R211, the body of the loop), by the checks of R80 in their order. -/
def onFrame (f : Bytes) (valid : Bool) (s : State) : State :=
  let s' := s.emit (.frame f valid)
  if !valid then s'.signal (.checksumMismatch (hexdumpFn f))
  else if frameLength f < 2 then s'.signal (.unrecognizedFrame (hexdumpFn f))
  else if frameInstruction f = s.cfg.instrStatusResp then
    match decodeStatusFn s.cfg f with
    | none => s'.signal (.shortStatus (hexdumpFn f))
    | some d => merge d s'
  else s'.signal (.unrecognizedInstruction (frameInstruction f))

/-- Every reassembled frame, in stream order (R211). -/
def onFrames (fs : List (Bytes × Bool)) (s : State) : State :=
  fs.foldl (fun t p => onFrame p.1 p.2 t) s

end Sys2Proof.Machine
end

