-- ==== Sys2Proof/Machine/Transport.lean ====
section
/-! DEFINITION. The four transport events (R192, R193, R195, R204, R205, R210, R211, R217), each followed by Advance()
(R181). -/

namespace Sys2Proof.Machine

open Sys2Proof

/-- ConnectDone(r) (R192, R193); spurious unless CONN = Connecting (R217). -/
def onConnectDone (r : TransportResult) (s : State) : State :=
  if s.conn = .connecting then
    match r with
    | .ok => (s.setConn .connected).answerConnect .connectedOk
    | .err e => (s.setConn .faulted).answerConnect (.connectError (.transport e))
  else s.signal (.spuriousTransportEvent .connectDone)

/-- TxDone(r) for an open job whose write for `id` is outstanding (R204, R205). -/
def openTxDone (j : OpenJob) (id : Byte) (r : TransportResult) (s : State) : State :=
  match r with
  | .ok => ((s.mapMark id .opened).setActive (some (.openJob (j.succeed id s.now)))).settle
  | .err e => (s.setActive (some (.openJob (j.fail id (.transport e))))).settle

/-- TxDone(r) for a status job whose write is outstanding (R210). -/
def statusTxDone (j : StatusJob) (r : TransportResult) (s : State) : State :=
  match r with
  | .err e => resolve j (.transportError e) s.settle
  | .ok =>
    if j.respSeen then resolve j .fresh s.settle
    else s.settle.setActive (some (.statusJob
      { j with phase := .awaiting, deadline := some (s.now + s.cfg.statusTimeout) }))

/-- TxDone(r); spurious when no job is in phase AwaitTx (R217). An open job in AwaitTx has a current ID (R31). -/
def onTxDone (r : TransportResult) (s : State) : State :=
  match s.active with
  | some (.openJob j) => match j.phase, j.ids[j.k]? with
    | .awaitTx, some id => openTxDone j id r s
    | _, _ => s.signal (.spuriousTransportEvent .txDone)
  | some (.statusJob j) =>
    if j.phase = .awaitTx then statusTxDone j r s else s.signal (.spuriousTransportEvent .txDone)
  | none => s.signal (.spuriousTransportEvent .txDone)

/-- Rx(chunk) (R211). -/
def onRx (chunk : Bytes) (s : State) : State := onFrames (reassemble chunk s).2 (reassemble chunk s).1

/-- LineLost() (R195). -/
def onLineLost (s : State) : State :=
  if s.conn = .connected then (s.setConn .faulted).signal .lineLost else s

/-- CONNECT_DONE. -/
def execConnectDone (result : TransportResult) (s : State) : Host.Outcome State Fault Refusal :=
  .next (advance (onConnectDone result s))

/-- TX_DONE. -/
def execTxDone (result : TransportResult) (s : State) : Host.Outcome State Fault Refusal :=
  .next (advance (onTxDone result s))

/-- RX. -/
def execRx (chunk : Bytes) (s : State) : Host.Outcome State Fault Refusal :=
  .next (advance (onRx chunk s))

/-- LINE_LOST. -/
def execLineLost (s : State) : Host.Outcome State Fault Refusal :=
  .next (advance (onLineLost s))

end Sys2Proof.Machine
end

