-- ==== Sys2Proof/Machine/Wire.lean ====
section
/-! DEFINITION. The wire instructions (R77 to R80), each as the effect the engine gives it inside the event that
carries it: an outbound frame as the send slot that writes it, an inbound frame as its validation (R147) and its
handling (R211). Advance() belongs to the event, not to the frame (R181). -/

namespace Sys2Proof.Machine

open Sys2Proof

/-- OPEN: the send slot of the active open job, when the ID is its current one and it is Ready (R202, R203). The engine
writes the frame in no other case (R129): otherwise nothing happens (notes/assumptions/8.md). -/
def execOpenFrame (id : Byte) (s : State) : Host.Outcome State Fault Refusal :=
  .next <| match s.active with
    | some (.openJob j) => if j.phase = .ready ∧ j.ids[j.k]? = some id then (sendOpen j id s).1 else s
    | _ => s

/-- STATUS_REQ: the send slot of the active status job, when it is Ready (R209); otherwise nothing happens
(notes/assumptions/8.md). -/
def execStatusReq (s : State) : Host.Outcome State Fault Refusal :=
  .next <| match s.active with
    | some (.statusJob j) => if j.phase = .ready then (sendStatusReq j s).1 else s
    | _ => s

/-- A frame as it comes out of the stream: validated (R147), then handled (R211). -/
def receiveFrame (f : Bytes) (s : State) : State :=
  onFrame f (validateFn s.cfg.poly f) (s.runValidate f)

/-- STATUS_RESP (R79, R211, R212). -/
def execStatusResp (address s0 s1 s2 s3 s4 s5 : Byte) (extra : Bytes) (s : State) :
    Host.Outcome State Fault Refusal :=
  .next (receiveFrame (statusRespFrame s.cfg address s0 s1 s2 s3 s4 s5 extra) s)

/-- INBOUND_OTHER (R80, R82, R211). -/
def execInboundOther (frame : Bytes) (s : State) : Host.Outcome State Fault Refusal :=
  .next (receiveFrame frame s)

end Sys2Proof.Machine
end

