-- ==== Sys2Proof/Machine/Dispatch.lean ====
section
/-! DEFINITION. What each instruction does: one arm per constructor of `Instr`, each a direct call of its meaning. -/

namespace Sys2Proof.Machine

open Sys2Proof

def exec (i : Instr) (s : State) : Host.Outcome State Fault Refusal :=
  match i with
  -- wire instructions
  | .openFrame id => Sys2Proof.Machine.execOpenFrame id s
  | .statusReq => Sys2Proof.Machine.execStatusReq s
  | .statusResp a s0 s1 s2 s3 s4 s5 extra => Sys2Proof.Machine.execStatusResp a s0 s1 s2 s3 s4 s5 extra s
  | .inboundOther frame => Sys2Proof.Machine.execInboundOther frame s
  -- host events
  | .connect path baudRate => Sys2Proof.Machine.execConnect path baudRate s
  | .disconnect => Sys2Proof.Machine.execDisconnect s
  | .openCabinets ids => Sys2Proof.Machine.execOpenCabinets ids s
  | .getStatus requestFresh => Sys2Proof.Machine.execGetStatus requestFresh s
  | .resetStatus => Sys2Proof.Machine.execResetStatus s
  -- transport events
  | .connectDone result => Sys2Proof.Machine.execConnectDone result s
  | .txDone result => Sys2Proof.Machine.execTxDone result s
  | .rx chunk => Sys2Proof.Machine.execRx chunk s
  | .lineLost => Sys2Proof.Machine.execLineLost s
  -- timer event
  | .tick t => Sys2Proof.Machine.execTick t s
  -- internal datapath operations
  | .round => Sys2Proof.Machine.execRound s
  | .ckInit => Sys2Proof.Machine.execCkInit s
  | .ckByte b => Sys2Proof.Machine.execCkByte b s
  | .checksum bs => Sys2Proof.Machine.execChecksum bs s
  | .build payload address instruction => Sys2Proof.Machine.execBuild payload address instruction s
  | .validate f => Sys2Proof.Machine.execValidate f s
  | .hexdump bs => Sys2Proof.Machine.execHexdump bs s
  | .reassemble chunk => Sys2Proof.Machine.execReassemble chunk s
  | .decodeStatus f => Sys2Proof.Machine.execDecodeStatus f s

end Sys2Proof.Machine
end

