-- ==== Sys2Proof/WellFormed.lean ====
section
/-! DEFINITION. Which terms of `Instr` are instructions of the engine configured with `c`. The operands whose type
already says all (bytes, integers, Bools, byte sequences of any length) need no check. An ID outside 0..255 in
`openCabinets` and a payload longer than 253 bytes in `build` are well formed: the spec gives each its outcome (R200,
R122). -/

namespace Sys2Proof

/-- The checks of R79, R80 and R161 on the operands of an instruction. -/
def Instr.wellFormed (c : Cfg) : Instr → Bool
  | .openFrame _ => true
  | .statusReq => true
  -- LENGTH = 8 + the extra bytes is one byte (R72)
  | .statusResp _ _ _ _ _ _ _ extra => decide (extra.length ≤ 247)
  -- a frame (R70, R72) that does not match STATUS_RESP with LENGTH ≥ 8 (R80)
  | .inboundOther f => isFrame c f && !isStatusResponse c f
  | .connect _ _ => true
  | .disconnect => true
  | .openCabinets _ => true
  | .getStatus _ => true
  | .resetStatus => true
  | .connectDone _ => true
  | .txDone _ => true
  | .rx _ => true
  | .lineLost => true
  | .tick _ => true
  | .round => true
  | .ckInit => true
  | .ckByte _ => true
  | .checksum _ => true
  | .build _ _ _ => true
  | .validate _ => true
  | .hexdump _ => true
  | .reassemble _ => true
  -- a frame with len(f) = f[2] + 4 (R161); its header bytes are not examined (R166)
  | .decodeStatus f => decide (4 ≤ f.length) && f.length == frameLength f + 4

/-- The port an instruction's encoding is read from; none for the internal operations, which "have no encoding of
their own" (R90). -/
def Instr.port : Instr → Option Port
  | .openFrame _ => some .outbound
  | .statusReq => some .outbound
  | .statusResp _ _ _ _ _ _ _ _ => some .inbound
  | .inboundOther _ => some .inbound
  | .connect _ _ => some .event
  | .disconnect => some .event
  | .openCabinets _ => some .event
  | .getStatus _ => some .event
  | .resetStatus => some .event
  | .connectDone _ => some .event
  | .txDone _ => some .event
  | .rx _ => some .event
  | .lineLost => some .event
  | .tick _ => some .event
  | .round => none
  | .ckInit => none
  | .ckByte _ => none
  | .checksum _ => none
  | .build _ _ _ => none
  | .validate _ => none
  | .hexdump _ => none
  | .reassemble _ => none
  | .decodeStatus _ => none

/-- Whether an instruction is one of the ten input events (R88). -/
def Instr.isEvent (i : Instr) : Bool := i.port == some .event

end Sys2Proof
end

