-- ==== Sys2Proof/Decode.lean ====
section
/-! DEFINITION. The decoder, total on any bytes and rejecting by name, and after it the encoder.

Three ports (`Port`). An EVENT record is the selector byte of R88 followed by the operands. The spec gives the
selectors and no byte layout for operands, so the layout below is the model's (notes/assumptions/4.md): a natural is
base-128 digits, least significant first, bit 7 set on every digit but the last; an integer is such a natural, 2n for
n ≥ 0 and -2n-1 for n < 0; a byte sequence or a list is its count and then its elements; a Bool is one byte, 0 or 1; a
result is the byte 0 for Ok, or 1 and the error's bytes. Zero bytes may pad a record. An INBOUND frame is one of the
formats F-SRESP and F-ANY, an OUTBOUND frame F-OPEN or F-SREQ (R77 to R80, R85). The internal operations have no
encoding (R90): nothing decodes to one. -/

namespace Sys2Proof

/-! Event selectors (R88) -/

/-- The selector of an event kind (R88). -/
def EventKind.selector : EventKind → Byte
  | .connect => 0x01#8
  | .disconnect => 0x02#8
  | .openCabinets => 0x03#8
  | .getStatus => 0x04#8
  | .resetStatus => 0x05#8
  | .connectDone => 0x10#8
  | .txDone => 0x11#8
  | .rx => 0x12#8
  | .lineLost => 0x13#8
  | .tick => 0x20#8

/-- Every event kind. -/
def EventKind.all : List EventKind :=
  [.connect, .disconnect, .openCabinets, .getStatus, .resetStatus, .connectDone, .txDone, .rx, .lineLost, .tick]

/-- The event kind of a selector byte; none for a byte R88 does not list. -/
def EventKind.ofSelector (b : Byte) : Option EventKind := EventKind.all.find? fun k => k.selector == b

/-! Operands of event records -/

/-- A natural operand. -/
def decodeNat : Bytes → Except DecodeError (Nat × Bytes)
  | [] => .error .truncatedOperand
  | b :: rest =>
    if b.toNat < 128 then .ok (b.toNat, rest)
    else match decodeNat rest with
      | .error e => .error e
      | .ok (n, rest') => .ok (b.toNat - 128 + 128 * n, rest')

/-- The integer a natural stands for: 2n for n, 2n + 1 for -(n + 1). -/
def intOfNat (m : Nat) : Int := if m % 2 = 0 then Int.ofNat (m / 2) else Int.negSucc (m / 2)

/-- `n` integer operands. -/
def decodeInts : Nat → Bytes → Except DecodeError (List Int × Bytes)
  | 0, bs => .ok ([], bs)
  | n + 1, bs => match decodeNat bs with
    | .error e => .error e
    | .ok (m, rest) => match decodeInts n rest with
      | .error e => .error e
      | .ok (vs, rest') => .ok (intOfNat m :: vs, rest')

/-- A list of integers: its count, then its elements. -/
def decodeIntList (bs : Bytes) : Except DecodeError (List Int × Bytes) :=
  match decodeNat bs with
  | .error e => .error e
  | .ok (n, rest) => decodeInts n rest

/-- A byte sequence: its count, then its bytes. -/
def decodeBytes (bs : Bytes) : Except DecodeError (Bytes × Bytes) :=
  match decodeNat bs with
  | .error e => .error e
  | .ok (n, rest) => if n ≤ rest.length then .ok (rest.take n, rest.drop n) else .error .truncatedOperand

/-- A Bool operand. -/
def decodeBool : Bytes → Except DecodeError (Bool × Bytes)
  | [] => .error .truncatedOperand
  | b :: rest => if b = 0#8 then .ok (false, rest) else if b = 1#8 then .ok (true, rest) else .error (.badBool b)

/-- A result operand (R88): `Ok` or `Err(e)`. -/
def decodeResult : Bytes → Except DecodeError (TransportResult × Bytes)
  | [] => .error .truncatedOperand
  | b :: rest =>
    if b = 0#8 then .ok (.ok, rest)
    else if b = 1#8 then match decodeBytes rest with
      | .error e => .error e
      | .ok (e, rest') => .ok (.err e, rest')
    else .error (.badResult b)

/-- The operands of an event of a given kind (R88), and the bytes after them. -/
def decodeOperands (k : EventKind) (bs : Bytes) : Except DecodeError (Instr × Bytes) :=
  match k with
  | .connect => match decodeBytes bs with
    | .error e => .error e
    | .ok (path, rest) => match decodeNat rest with
      | .error e => .error e
      | .ok (baud, rest') => .ok (.connect path baud, rest')
  | .disconnect => .ok (.disconnect, bs)
  | .openCabinets => match decodeIntList bs with
    | .error e => .error e
    | .ok (ids, rest) => .ok (.openCabinets ids, rest)
  | .getStatus => match decodeBool bs with
    | .error e => .error e
    | .ok (f, rest) => .ok (.getStatus f, rest)
  | .resetStatus => .ok (.resetStatus, bs)
  | .connectDone => match decodeResult bs with
    | .error e => .error e
    | .ok (r, rest) => .ok (.connectDone r, rest)
  | .txDone => match decodeResult bs with
    | .error e => .error e
    | .ok (r, rest) => .ok (.txDone r, rest)
  | .rx => match decodeBytes bs with
    | .error e => .error e
    | .ok (chunk, rest) => .ok (.rx chunk, rest)
  | .lineLost => .ok (.lineLost, bs)
  | .tick => match decodeNat bs with
    | .error e => .error e
    | .ok (t, rest) => .ok (.tick t, rest)

/-- An event record: selector, operands, zero bytes. -/
def decodeEvent : Bytes → Except DecodeError Instr
  | [] => .error .emptyRecord
  | sel :: bs => match EventKind.ofSelector sel with
    | none => .error (.unknownSelector sel)
    | some k => match decodeOperands k bs with
      | .error e => .error e
      | .ok (i, pad) => if pad.all (· == 0#8) then .ok i else .error .trailingBytes

/-! Frames -/

/-- A frame cut from the received stream (R80): STATUS_RESP when it is a status response, INBOUND_OTHER otherwise. -/
def decodeInbound (c : Cfg) (f : Bytes) : Except DecodeError Instr :=
  if isFrame c f then
    if isStatusResponse c f then
      match f.drop 3 with
      | a :: _ :: s0 :: s1 :: s2 :: s3 :: s4 :: s5 :: rest => .ok (.statusResp a s0 s1 s2 s3 s4 s5 rest.dropLast)
      | _ => .error .notAFrame
    else .ok (.inboundOther f)
  else .error .notAFrame

/-- A frame handed to the transport (R77, R78, R83): OPEN or STATUS_REQ, told apart by LENGTH and INSTRUCTION. -/
def decodeOutbound (c : Cfg) (f : Bytes) : Except DecodeError Instr :=
  if !isFrame c f then .error .notAFrame
  else if !validateFn c.poly f then .error .badChecksum
  else if frameAddress f ≠ c.address then .error .foreignAddress
  else if frameLength f = 3 ∧ frameInstruction f = c.instrOpen then .ok (.openFrame (byteAt f 5))
  else if frameLength f = 2 ∧ frameInstruction f = c.instrStatusReq then .ok .statusReq
  else .error .notOutbound

/-- The instruction an encoding stands for. -/
def decode (c : Cfg) (w : Coded) : Except DecodeError Instr :=
  match w.port with
  | .event => decodeEvent w.bytes
  | .inbound => decodeInbound c w.bytes
  | .outbound => decodeOutbound c w.bytes

/-! Encoder -/

/-- The digits of a natural, with `fuel` digits to spare. -/
def encodeNatDigits : Nat → Nat → Bytes
  | 0, n => [BitVec.ofNat 8 n]
  | fuel + 1, n =>
    if n < 128 then [BitVec.ofNat 8 n]
    else BitVec.ofNat 8 (128 + n % 128) :: encodeNatDigits fuel (n / 128)

/-- A natural operand. -/
def encodeNat (n : Nat) : Bytes := encodeNatDigits n n

/-- The natural that stands for an integer. -/
def natOfInt : Int → Nat
  | .ofNat n => 2 * n
  | .negSucc n => 2 * n + 1

/-- A list of integers. -/
def encodeIntList (vs : List Int) : Bytes := encodeNat vs.length ++ vs.flatMap fun v => encodeNat (natOfInt v)

/-- A byte sequence. -/
def encodeBytes (bs : Bytes) : Bytes := encodeNat bs.length ++ bs

/-- A Bool operand. -/
def encodeBool (b : Bool) : Bytes := [if b then 1#8 else 0#8]

/-- A result operand. -/
def encodeResult : TransportResult → Bytes
  | .ok => [0#8]
  | .err e => 1#8 :: encodeBytes e

/-- The record of an event. -/
def eventRecord (k : EventKind) (operands : Bytes) : Bytes := k.selector :: operands

/-- The encoding of an instruction; none for an internal operation (R90). -/
def encode (c : Cfg) : Instr → Option Coded
  | .openFrame id => some ⟨.outbound, sealFrame c.poly (frameBody c [id] c.address c.instrOpen)⟩
  | .statusReq => some ⟨.outbound, sealFrame c.poly (frameBody c [] c.address c.instrStatusReq)⟩
  | .statusResp a s0 s1 s2 s3 s4 s5 extra => some ⟨.inbound, statusRespFrame c a s0 s1 s2 s3 s4 s5 extra⟩
  | .inboundOther f => some ⟨.inbound, f⟩
  | .connect path baud => some ⟨.event, eventRecord .connect (encodeBytes path ++ encodeNat baud)⟩
  | .disconnect => some ⟨.event, eventRecord .disconnect []⟩
  | .openCabinets ids => some ⟨.event, eventRecord .openCabinets (encodeIntList ids)⟩
  | .getStatus fresh => some ⟨.event, eventRecord .getStatus (encodeBool fresh)⟩
  | .resetStatus => some ⟨.event, eventRecord .resetStatus []⟩
  | .connectDone r => some ⟨.event, eventRecord .connectDone (encodeResult r)⟩
  | .txDone r => some ⟨.event, eventRecord .txDone (encodeResult r)⟩
  | .rx chunk => some ⟨.event, eventRecord .rx (encodeBytes chunk)⟩
  | .lineLost => some ⟨.event, eventRecord .lineLost []⟩
  | .tick t => some ⟨.event, eventRecord .tick (encodeNat t)⟩
  | .round => none
  | .ckInit => none
  | .ckByte _ => none
  | .checksum _ => none
  | .build _ _ _ => none
  | .validate _ => none
  | .hexdump _ => none
  | .reassemble _ => none
  | .decodeStatus _ => none

/-! Words of the opcode table -/

/-- The first `n` bytes of a word, bit 0 the least-significant bit of the first byte and a later byte in higher bits.
DESIGN CHOICE (notes/assumptions/23.md): R85 writes a frame's first byte leftmost and gives a frame row no number; this is
the numbering of the words that the host hands over. -/
def bytesOfWord : Nat → Nat → Bytes
  | 0, _ => []
  | n + 1, w => BitVec.ofNat 8 w :: bytesOfWord n (w / 256)

/-- The zero operand bytes that follow an event row's word. -/
def zeroOperands : Bytes := List.replicate 8 0#8

/-- Whether a word of so many bits is an event record; the shortest frame has 32 bits (R72). -/
def isEventWord (nbits : Nat) : Bool := decide (nbits < 32)

/-- The record of an event row's word, its operand bytes zero. -/
def wordRecord (nbits w : Nat) : Bytes := bytesOfWord ((nbits + 7) / 8) w ++ zeroOperands

/-- The instruction the decoder reads from the word `w` of an opcode-table row of `nbits` bits: an event record with
zero operands, or the bytes of a frame, outbound before inbound as in the table, under `Config.cfg`. -/
def decodeTableWord (nbits w : Nat) : Option Instr :=
  if isEventWord nbits then (decodeEvent (wordRecord nbits w)).toOption
  else match decodeOutbound Config.cfg (bytesOfWord ((nbits + 7) / 8) w) with
    | .ok i => some i
    | .error _ => (decodeInbound Config.cfg (bytesOfWord ((nbits + 7) / 8) w)).toOption

end Sys2Proof
end

