-- ==== Sys2Proof/Machine/Construct.lean ====
section
/-! DEFINITION. Construction, the engine's only reset (R270). -/

namespace Sys2Proof.Machine

open Sys2Proof

/-- Construction with a configuration (R270, R271): the constructed engine, or the refusal of a CFG that violates a
constraint of R9 (R40, D38). -/
def construct (c : Cfg) : Host.Outcome State Fault Refusal :=
  if c.valid then .next (State.constructed c) else .refused .configRefused

/-- CFG_COLLISION as the engine's read-only status register (R37, R39). -/
def State.cfgCollision (s : State) : Bool := s.cfg.collision

end Sys2Proof.Machine
end

