-- ==== Sys2Proof/Machine/Fetch.lean ====
section
/-! DEFINITION. Where the next instruction comes from. The engine fetches nothing (R67): the environment presents
events one at a time, and the engine takes the next one only when it has processed the one before (R15, R61). The
events presented and not yet taken wait in `State.inbox`. -/

namespace Sys2Proof.Machine

open Sys2Proof

/-- The next pending record and the state without it; none when no event is pending. -/
def fetch (s : State) : Option (Bytes × State) :=
  match s.inbox with
  | [] => none
  | r :: rest => some (r, { s with inbox := rest })

/-- The event that brings an instruction about: an event itself, the host call whose send slot writes an outbound
frame, the delivery of an inbound frame's bytes (notes/assumptions/9.md). -/
def carrierRecord (c : Cfg) (i : Instr) : Bytes :=
  match i with
  | .openFrame id => eventRecord .openCabinets (encodeIntList [Int.ofNat id.toNat])
  | .statusReq => eventRecord .getStatus (encodeBool true)
  | i => match encode c i with
    | some ⟨.event, bs⟩ => bs
    | some ⟨_, bs⟩ => eventRecord .rx (encodeBytes bs)
    | none => []

/-- Whether an instruction is an outbound frame. -/
def isOutbound (i : Instr) : Bool := i.port == some .outbound

/-- The state with a free send slot: connected, no job, no pending connect, no pacing wait. An outbound frame is written
only there. -/
def withSendSlot (s : State) : State :=
  { s with conn := .connected, connectTicket := none, queue := [], active := none, nextSendAt := s.now }

/-- The state with the pending record `r` in front. -/
def withPending (s : State) (r : Bytes) : State := { s with inbox := r :: s.inbox }

/-- `withFetchWord` for the word of a frame row: its carrier is pending, with a free send slot for an outbound frame; a
word that is no frame leaves a record that `step` refuses. -/
def withFrameWord (s : State) (nbits w : Nat) : State :=
  match decodeTableWord nbits w with
  | some i => if isOutbound i then withPending (withSendSlot s) (carrierRecord s.cfg i) else withPending s (carrierRecord s.cfg i)
  | none => withPending s []

end Sys2Proof.Machine
end

