-- ==== Sys2Proof/Machine/Step.lean ====
section
/-! DEFINITION. One step of the engine: one event, to completion (R15, R181). -/

namespace Sys2Proof.Machine

open Sys2Proof

/-- The engine takes the next pending event and processes it atomically (R15). With no event pending it is idle and all
its state survives (R261). A record that is no event of R88 is refused by name. -/
def step (s : State) : Host.Outcome State Fault Refusal :=
  match fetch s with
  | none => .next s
  | some (r, t) => match decodeEvent r with
    | .ok i => exec i t
    | .error e => .refused (.undecodable e)

/-- The state with the opcode-table word `w` of `nbits` bits as what `step` runs next: an event row's record with zero
operands pending, or a frame row's carrier (`withFrameWord`). -/
def State.withFetchWord (s : State) (nbits w : Nat) : State :=
  if isEventWord nbits then withPending s (wordRecord nbits w) else withFrameWord s nbits w

end Sys2Proof.Machine
end

