-- ==== Sys2Proof/Machine/Errors.lean ====
section
/-! DEFINITION. The error taxonomy (R241): the numeric codes, and which errors an output delivers. -/

namespace Sys2Proof.Machine

open Sys2Proof

/-- The code of an error kind (R241). -/
def ErrorValue.code : ErrorValue → Nat
  | .structuralInput _ => 1
  | .transport _ => 2
  | .checksumMismatch _ => 3
  | .frameTimeout => 4
  | .bufferOverflow _ => 5
  | .connect _ => 6

/-- The error a freshness value delivers (R221, R241). -/
def Freshness.errors : Freshness → List ErrorValue
  | .fresh => []
  | .timedOut => [.frameTimeout]
  | .notConnected => [.transport .notConnected]
  | .transportError e => [.transport (.transport e)]
  | .notRequested => []

/-- The errors a response delivers (R241). -/
def ResponseValue.errors : ResponseValue → List ErrorValue
  | .connectedOk => []
  | .connectError e => [.connect e]
  | .ok => []
  | .structuralInputError e => [.structuralInput e]
  | .openResult _ failed => failed.map CabinetFailResult.error
  | .status _ _ f => f.errors

/-- The error a diagnostic signal delivers (R241); the other signals of R246 are no error kind. -/
def Diag.errors : Diag → List ErrorValue
  | .checksumMismatch hex => [.checksumMismatch hex]
  | .frameTimeout => [.frameTimeout]
  | .bufferOverflow n => [.bufferOverflow n]
  | .resyncDrop _ => []
  | .unrecognizedFrame _ => []
  | .unrecognizedInstruction _ => []
  | .shortStatus _ => []
  | .lineLost => []
  | .spuriousTransportEvent _ => []
  | .configCollision _ _ _ => []

/-- The errors an output delivers (R241, "delivered as"). -/
def Output.errors : Output → List ErrorValue
  | .txFrame _ => []
  | .openPort _ _ => []
  | .closePort => []
  | .response _ v => v.errors
  | .frame _ _ => []
  | .diag d => d.errors

end Sys2Proof.Machine
end

