-- ==== Sys2Proof/Machine/Script.lean ====
section
/-! DEFINITION. The event-script notation (R92): its input lines and the events they stand for, and its one shorthand. -/

namespace Sys2Proof.Machine

open Sys2Proof

/-- An input line of a script (R92). -/
inductive ScriptLine where
  | hostConnect (path : OpaqueValue) (baud : Nat)
  | hostDisconnect
  | hostOpen (ids : List Int)
  | hostStatusFresh
  | hostStatusCached
  | hostReset
  | xportConnected
  | xportConnectFail (e : OpaqueValue)
  | xportTxok
  | xportTxerr (e : OpaqueValue)
  | xportRx (bytes : Bytes)
  | xportLost
  | tick (t : Nat)
  deriving DecidableEq, Repr

/-- The event of a script line (R92). -/
def ScriptLine.event : ScriptLine → Instr
  | .hostConnect path baud => .connect path baud
  | .hostDisconnect => .disconnect
  | .hostOpen ids => .openCabinets ids
  | .hostStatusFresh => .getStatus true
  | .hostStatusCached => .getStatus false
  | .hostReset => .resetStatus
  | .xportConnected => .connectDone .ok
  | .xportConnectFail e => .connectDone (.err e)
  | .xportTxok => .txDone .ok
  | .xportTxerr e => .txDone (.err e)
  | .xportRx bytes => .rx bytes
  | .xportLost => .lineLost
  | .tick t => .tick t

/-- `FRAME(instr, payload)` (R92): the bytes `BUILD(payload, ADDRESS, instr)`. -/
def frameShorthand (c : Cfg) (instr : Byte) (payload : Bytes) : Option Bytes :=
  buildFn c payload c.address instr

end Sys2Proof.Machine
end

