-- ==== Sys2Proof/Safety.lean ====
section
/-! DEFINITION. The terms that statements about the engine use: the state invariants of R44 and those that the rules
of 10_state.md and 44_controller.md give beside them, runs of the engine, what a step emits, and what the transport
owes (R257). -/

namespace Sys2Proof.Machine

open Sys2Proof

/-! Parts of the state -/

/-- The residue property of the reassembly buffer (R151, I2 of R44): fewer than 4 bytes, or a header and fewer bytes
than its frame. -/
def Residue (c : Cfg) (buf : Bytes) : Prop :=
  buf.length < 4 ∨ (byteAt buf 0 = c.hdr0 ∧ byteAt buf 1 = c.hdr1 ∧ buf.length < (byteAt buf 2).toNat + 4)

/-- A write is outstanding at the transport: the active job is in phase AwaitTx (I4 of R44). -/
def State.writeOutstanding (s : State) : Bool :=
  match s.active with
  | some j => j.isAwaitTx
  | none => false

/-- The ticket of a job (R30). -/
def Job.ticket : Job → Nat
  | .openJob j => j.ticket
  | .statusJob j => j.ticket

/-- The jobs that have not resolved, the active one first (R28, R29). -/
def State.jobs (s : State) : List Job := s.active.toList ++ s.queue

/-- What R206 says of a batch after `k` IDs: each of them once per occurrence, in input order, split between the
successes and the failures. -/
def BatchSplit (ids : Bytes) (opened : List CabinetOpenResult) (failed : List CabinetFailResult) : Prop :=
  (opened.map CabinetOpenResult.id ++ failed.map CabinetFailResult.id).Perm ids ∧
  (opened.map CabinetOpenResult.id).Sublist ids ∧ (failed.map CabinetFailResult.id).Sublist ids

/-- An open job as R31 describes it. -/
structure OpenJob.Ok (j : OpenJob) : Prop where
  ids_ne : j.ids ≠ []
  k_le : j.k ≤ j.ids.length
  awaitTx_lt : j.phase = .awaitTx → j.k < j.ids.length
  batch : BatchSplit (j.ids.take j.k) j.opened j.failed

/-- A status job as R32 and I7 of R44 describe it; an armed deadline lies in the future (R215). -/
structure StatusJob.Ok (now : Nat) (j : StatusJob) : Prop where
  deadline_iff : j.deadline.isSome ↔ j.phase = .awaiting
  deadline_future : ∀ d, j.deadline = some d → now < d
  respSeen_phase : j.respSeen = true → j.phase = .awaitTx

/-- A job as R31 and R32 describe it. -/
def Job.Ok (now : Nat) : Job → Prop
  | .openJob j => j.Ok
  | .statusJob j => j.Ok now

/-- A job not yet started (R200, R208). -/
def Job.Fresh : Job → Prop
  | .openJob j => j.k = 0 ∧ j.opened = [] ∧ j.failed = [] ∧ j.phase = .ready
  | .statusJob j => j.phase = .ready ∧ j.deadline = none ∧ j.respSeen = false

/-- A job with something left to send: a batch that is finished is answered without a wait (R201). -/
def Job.Unfinished : Job → Prop
  | .openJob j => j.k < j.ids.length
  | .statusJob _ => True

/-- Nothing is left that Advance() could do (R196): no job waits behind nothing, and a Ready job has something left to
send and waits for pacing. -/
structure State.Quiescent (s : State) : Prop where
  idle : s.active = none → s.queue = []
  paced : ∀ j, s.active = some j → j.isReady → s.now < s.nextSendAt
  unfinished : ∀ j, s.active = some j → j.isReady → j.Unfinished

/-- The state invariants: I1 to I7 of R44 (I3 and I4 stand in the types: one optional active job, and
`writeOutstanding` read off its phase), the constraints of CFG (R9), the canonical map (R26), the jobs (R28 to R32), the
tickets (R34), pacing (R198) and quiescence (R196). -/
structure State.Inv (s : State) : Prop where
  cfg_valid : s.cfg.valid = true
  /-- I1 -/
  buf_le : s.rxbuf.length ≤ s.cfg.bufCap
  /-- I2 -/
  residue : Residue s.cfg s.rxbuf
  /-- I5 -/
  connect_iff : s.connectTicket.isSome ↔ s.conn = .connecting
  map_wf : Memory.wf s.cabMap = true
  /-- I6 -/
  map_id : ∀ e ∈ s.cabMap, e.2.id.toNat = e.1
  map_past : ∀ e ∈ s.cabMap, e.2.lastUpdatedAt ≤ s.now
  active_ok : ∀ j, s.active = some j → j.Ok s.now
  queue_ok : ∀ j ∈ s.queue, j.Ok s.now
  queue_fresh : ∀ j ∈ s.queue, j.Fresh
  tickets_rise : (s.jobs.map Job.ticket).Pairwise (· < ·)
  tickets_lt : ∀ j ∈ s.jobs, j.ticket < s.nextTicket
  connect_ticket_lt : ∀ t, s.connectTicket = some t → t < s.nextTicket
  paced_write : s.writeOutstanding = true → s.nextSendAt ≤ s.now
  quiescent : s.Quiescent

/-! Runs -/

/-- `t` is reached from `s` by steps of the engine. -/
inductive Steps : State → State → Prop where
  | refl (s : State) : Steps s s
  | tail {s t u : State} : Steps s t → step t = .next u → Steps s u

/-- Instructions run one after another, stopping at the first that has no next state. -/
def execAll : List Instr → State → Host.Outcome State Fault Refusal
  | [], s => .next s
  | i :: is, s => match exec i s with
    | .next t => execAll is t
    | .fault r => .fault r
    | .refused r => .refused r

/-- The event the next step takes, when one is pending and decodes. -/
def State.pending (s : State) : Option Instr :=
  match s.inbox with
  | [] => none
  | r :: _ => (decodeEvent r).toOption

/-- What was emitted between `s` and a later `t`. -/
def emitted (s t : State) : List Output := t.out.drop s.out.length

/-- The frames written among some outputs. -/
def txFrames : List Output → List Bytes
  | [] => []
  | .txFrame f :: rest => f :: txFrames rest
  | .openPort _ _ :: rest => txFrames rest
  | .closePort :: rest => txFrames rest
  | .response _ _ :: rest => txFrames rest
  | .frame _ _ :: rest => txFrames rest
  | .diag _ :: rest => txFrames rest

/-- The tickets of the responses among some outputs that answer a queued call (R182): every `openResult`, and every status
report but that of `getStatus(false)`. -/
def jobResponses : List Output → List Nat
  | [] => []
  | .response tk (.openResult _ _) :: rest => tk :: jobResponses rest
  | .response tk (.status _ _ f) :: rest => if f = .notRequested then jobResponses rest else tk :: jobResponses rest
  | .response _ .connectedOk :: rest => jobResponses rest
  | .response _ (.connectError _) :: rest => jobResponses rest
  | .response _ .ok :: rest => jobResponses rest
  | .response _ (.structuralInputError _) :: rest => jobResponses rest
  | .txFrame _ :: rest => jobResponses rest
  | .openPort _ _ :: rest => jobResponses rest
  | .closePort :: rest => jobResponses rest
  | .frame _ _ :: rest => jobResponses rest
  | .diag _ :: rest => jobResponses rest

/-- How a buffer is taken apart by the reassembler's loop (R143 to R146): the bytes dropped, the frames cut and the
bytes that stay. -/
inductive Cuts (c : Cfg) : Bytes → List Byte → List Bytes → Bytes → Prop where
  /-- Fewer than 4 bytes: stop (R143). -/
  | short {buf : Bytes} : buf.length < 4 → Cuts c buf [] [] buf
  /-- No header in front: drop one byte (R144). -/
  | drop {b : Byte} {buf : Bytes} {ds : List Byte} {fs : List Bytes} {rest : Bytes} :
      4 ≤ (b :: buf).length → (b ≠ c.hdr0 ∨ byteAt buf 0 ≠ c.hdr1) → Cuts c buf ds fs rest →
      Cuts c (b :: buf) (b :: ds) fs rest
  /-- An incomplete frame in front: stop (R145). -/
  | wait {buf : Bytes} : 4 ≤ buf.length → byteAt buf 0 = c.hdr0 → byteAt buf 1 = c.hdr1 →
      buf.length < (byteAt buf 2).toNat + 4 → Cuts c buf [] [] buf
  /-- A whole frame in front: cut it (R146). -/
  | cut {f buf : Bytes} {ds : List Byte} {fs : List Bytes} {rest : Bytes} :
      4 ≤ f.length → byteAt f 0 = c.hdr0 → byteAt f 1 = c.hdr1 → f.length = (byteAt f 2).toNat + 4 →
      Cuts c buf ds fs rest → Cuts c (f ++ buf) ds (f :: fs) rest

/-- The state CONN has after an instruction, by the transition table of R184. -/
def connAfter (conn : ConnState) (i : Instr) : ConnState :=
  match i, conn with
  | .connect _ _, .disconnected => .connecting
  | .connect _ _, .faulted => .connecting
  | .connectDone .ok, .connecting => .connected
  | .connectDone (.err _), .connecting => .faulted
  | .disconnect, _ => .disconnected
  | .lineLost, .connected => .faulted
  | _, c => c

/-- Chunks fed to the reassembler one after another: the state it leaves and all frames cut. -/
def feed : List Bytes → State → State × List (Bytes × Bool)
  | [], s => (s, [])
  | c :: cs, s =>
    ((feed cs (reassemble c s).1).1, (reassemble c s).2 ++ (feed cs (reassemble c s).1).2)

/-- No chunk of the sequence overflows the buffer (R142). -/
def NoOverflow : List Bytes → State → Prop
  | [], _ => True
  | c :: cs, s => s.rxbuf.length + c.length ≤ s.cfg.bufCap ∧ NoOverflow cs (reassemble c s).1

/-! What the transport owes (R257) -/

/-- A completion answers an outstanding request; every other event is free. -/
def Dutiful (i : Instr) (s : State) : Prop :=
  match i with
  | .connectDone _ => s.conn = .connecting
  | .txDone _ => s.writeOutstanding = true
  | _ => True

end Sys2Proof.Machine
end

