-- ==== Sys2Proof/Certificates/Slice0/Obligations.lean ====
section
/-! DEFINITION. The statements for the provers, in the order of the spec's files: Checksum Unit, Frame Codec, Frame
Reassembler, Status Decoder, wire instructions, host calls, transport and timer events, Advance(), then the rules about
the whole machine, the decoder, construction and reset. -/

open Sys2Proof Sys2Proof.Machine

/-! ## Checksum Unit -/

/-- R101. ROUND tests bit 0 of ACC, shifts right, and XORs POLY when the bit was 1; nothing else changes. -/
def Obligations.RoundShiftsRightAndXorsPoly : Prop :=
  ∀ s : State, exec .round s =
    .next { s with acc := if s.acc.getLsbD 0 then (s.acc >>> 1) ^^^ s.cfg.poly else s.acc >>> 1 }

/-- R102, R103. CK_INIT sets ACC to 0. CK_BYTE(b) is one XOR of b into ACC and then eight ROUNDs. Neither changes
anything but ACC. -/
def Obligations.CkByteIsXorThenEightRounds : Prop :=
  (∀ s : State, exec .ckInit s = .next { s with acc := 0#8 }) ∧
  ∀ (b : Byte) (s : State), ∃ a : Byte,
    exec (.ckByte b) s = .next { s with acc := a } ∧
    execAll (List.replicate 8 .round) { s with acc := s.acc ^^^ b } = .next { s with acc := a }

/-- R104, R105. CHECKSUM(bs) is CK_INIT and then CK_BYTE of every byte in index order; it returns ACC and changes nothing
but ACC. On no bytes it is 0. -/
def Obligations.ChecksumAbsorbsBytesInOrder : Prop :=
  (∀ (bs : Bytes) (s : State), ∃ a : Byte,
    exec (.checksum bs) s = .next { s with acc := a, ret := .byte a } ∧
    execAll (.ckInit :: bs.map .ckByte) s = .next { s with acc := a }) ∧
  ∀ s : State, exec (.checksum []) s = .next { s with acc := 0#8, ret := .byte 0#8 }

/-- R107, all five facts, the failure of (e) for POLY[7] = 0 included. -/
def Obligations.ChecksumAlgebra : Prop :=
  ∀ p : Byte,
    (∀ x y, roundFn p (x ^^^ y) = roundFn p x ^^^ roundFn p y) ∧
    (∀ bs, checksumFn p (0#8 :: bs) = checksumFn p bs) ∧
    checksumFn p [0x80#8] = p ∧
    (∀ bs, checksumFn p (bs ++ [checksumFn p bs]) = 0#8) ∧
    (p.getLsbD 7 = true →
      Function.Bijective (rounds p 8) ∧
      ∀ bs k, checksumFn p (bs ++ [k]) = 0#8 ↔ k = checksumFn p bs) ∧
    (p.getLsbD 7 = false →
      ¬ Function.Bijective (rounds p 8) ∧
      ∃ bs k, checksumFn p (bs ++ [k]) = 0#8 ∧ k ≠ checksumFn p bs)

/-! ## Frame Codec -/

/-- R121, R122. BUILD lays the frame out byte by byte, its LENGTH one byte with len(result) = LENGTH + 4, and refuses a
payload longer than 253 bytes. (That ACC keeps the frame's checksum is the model's reading: log entry 7.) -/
def Obligations.BuildLaysOutTheFrame : Prop :=
  ∀ (payload : Bytes) (a i : Byte) (s : State),
    let l : Byte := BitVec.ofNat 8 (2 + payload.length)
    let body : Bytes := [s.cfg.hdr0, s.cfg.hdr1, l, a, i] ++ payload
    let k : Byte := checksumFn s.cfg.poly body
    (payload.length ≤ 253 →
      exec (.build payload a i) s = .next { s with acc := k, ret := .frame (body ++ [k]) } ∧
      l.toNat = 2 + payload.length ∧ (body ++ [k]).length = l.toNat + 4) ∧
    (253 < payload.length → exec (.build payload a i) s = .refused .buildRefused)

/-- R124. VALIDATE compares the last byte with the checksum of all the others; the empty sequence is invalid. Only ACC
changes, which holds the checksum that was computed. (That ACC keeps it is the model's reading: log entry 7.) -/
def Obligations.ValidateComparesLastByte : Prop :=
  (∀ s : State, exec (.validate []) s = .next { s with ret := .bool false }) ∧
  ∀ (f : Bytes) (k : Byte) (s : State),
    exec (.validate (f ++ [k])) s =
      .next { s with acc := checksumFn s.cfg.poly f, ret := .bool (decide (checksumFn s.cfg.poly f = k)) }

/-- R126. What BUILD returns validates. -/
def Obligations.BuiltFrameValidates : Prop :=
  ∀ (payload : Bytes) (a i : Byte) (s : State), payload.length ≤ 253 →
    ∃ (f : Bytes) (t u : State), exec (.build payload a i) s = .next t ∧ t.ret = .frame f ∧
      exec (.validate f) t = .next u ∧ u.ret = .bool true

/-- R127. When POLY[7] = 1, a non-empty sequence is valid exactly when its own checksum is 0. -/
def Obligations.ValidityByZeroChecksum : Prop :=
  ∀ (f : Bytes) (s : State), s.cfg.poly.getLsbD 7 = true → f ≠ [] →
    ∃ (t u : State), exec (.validate f) s = .next t ∧ exec (.checksum f) s = .next u ∧
      t.ret = .bool (decide (u.acc = 0#8)) ∧ u.ret = .byte u.acc

/-- R128. HEXDUMP joins the two uppercase hex digits of each byte, the high one first, by single spaces. It changes no
state but the returned text. -/
def Obligations.HexdumpJoinsUppercasePairs : Prop :=
  ∀ (bs : Bytes) (s : State), ∃ t : Text,
    exec (.hexdump bs) s = .next { s with ret := .text t } ∧
    t = List.intercalate [' '] (bs.map upperhex2) ∧
    t.length = 3 * bs.length - 1 ∧
    (∀ b : Byte, ∃ d e : Char, upperhex2 b = [d, e] ∧
      "0123456789ABCDEF".toList[b.toNat / 16]? = some d ∧ "0123456789ABCDEF".toList[b.toNat % 16]? = some e)

/-! ## Frame Reassembler -/

/-- R142. A chunk that would exceed BUF_CAP clears the buffer, is discarded unprocessed, and is signalled; the call
returns no frames. Nothing else changes. A total of exactly BUF_CAP bytes, or less, signals no overflow. -/
def Obligations.OverflowClearsBuffer : Prop :=
  ∀ (chunk : Bytes) (s : State),
    (s.cfg.bufCap < s.rxbuf.length + chunk.length →
      exec (.reassemble chunk) s = .next { s with
        rxbuf := []
        out := s.out ++ [.diag (.bufferOverflow (s.rxbuf.length + chunk.length))]
        ret := .frames [] }) ∧
    (s.rxbuf.length + chunk.length ≤ s.cfg.bufCap →
      ∃ t : State, exec (.reassemble chunk) s = .next t ∧ ∀ n, .diag (.bufferOverflow n) ∉ emitted s t)

/-- R141, R143 to R149. Without overflow, REASSEMBLE takes the buffered bytes and the chunk apart by the rules of `Cuts`
(fewer than 4 bytes: stop; no header: drop one byte and signal it; incomplete frame: stop; else cut), and returns the
frames in stream order with their validity. Only RXBUF, ACC and the signals change.
(That ACC keeps the checksum of the last frame cut is the model's reading: log entry 7.) -/
def Obligations.ReassembleCutsTheStream : Prop :=
  ∀ (chunk : Bytes) (s : State), s.rxbuf.length + chunk.length ≤ s.cfg.bufCap →
    ∃ (drops : List Byte) (fs : List Bytes) (rest : Bytes),
      Cuts s.cfg (s.rxbuf ++ chunk) drops fs rest ∧
      exec (.reassemble chunk) s = .next { s with
        rxbuf := rest
        acc := match fs.getLast? with
          | none => s.acc
          | some f => checksumFn s.cfg.poly f.dropLast
        out := s.out ++ drops.map fun b => .diag (.resyncDrop b)
        ret := .frames (fs.map fun f => (f, validateFn s.cfg.poly f)) }

/-- R151, R154. After every call the buffer is a residue, whatever it held before; and where it is one (within the cap),
an empty chunk emits nothing and changes nothing. -/
def Obligations.ResidueAndEmptyChunk : Prop :=
  (∀ (chunk : Bytes) (s : State), Residue (reassemble chunk s).1.cfg (reassemble chunk s).1.rxbuf) ∧
  ∀ s : State, Residue s.cfg s.rxbuf → s.rxbuf.length ≤ s.cfg.bufCap →
    exec (.reassemble []) s = .next { s with ret := .frames [] }

/-- R150. Any two ways of splitting a stream into chunks, none of which overflows, cut the same frames and leave the same
buffer. (The buffer starts as a residue, as every call leaves it, so that a split into no chunk at all agrees.) And one
frame fed to an empty buffer in any split yields exactly that frame, with its validity, and leaves the buffer empty. -/
def Obligations.ChunkSplitIndependence : Prop :=
  (∀ (cs ds : List Bytes) (s : State), Residue s.cfg s.rxbuf →
    NoOverflow cs s → NoOverflow ds s → cs.flatten = ds.flatten →
    (feed cs s).2 = (feed ds s).2 ∧ (feed cs s).1.rxbuf = (feed ds s).1.rxbuf) ∧
  ∀ (f : Bytes) (cs : List Bytes) (s : State), isFrame s.cfg f = true → s.rxbuf = [] → NoOverflow cs s →
    cs.flatten = f → (feed cs s).2 = [(f, validateFn s.cfg.poly f)] ∧ (feed cs s).1.rxbuf = []

/-- R144, R155. A frame behind a run of garbage that holds no header pair is still cut, and the garbage is dropped one
byte at a time; the two sentinel bytes differ. -/
def Obligations.FrameBehindGarbageIsCut : Prop :=
  ∀ (g f : Bytes) (s : State), s.cfg.hdr0 ≠ s.cfg.hdr1 → isFrame s.cfg f = true → s.rxbuf = [] →
    g.length + f.length ≤ s.cfg.bufCap →
    (∀ i, i + 1 < g.length → ¬ (byteAt g i = s.cfg.hdr0 ∧ byteAt g (i + 1) = s.cfg.hdr1)) →
    (reassemble (g ++ f) s).2 = [(f, validateFn s.cfg.poly f)] ∧
    (reassemble (g ++ f) s).1.rxbuf = [] ∧
    (reassemble (g ++ f) s).1.out = s.out ++ g.map fun b => .diag (.resyncDrop b)

/-! ## Status Decoder -/

/-- R161 to R163, R167. DECODE_STATUS of a frame is `None` when LENGTH < 8 or the instruction is not INSTR_STATUS_RESP;
otherwise 48 pairs, the pair of lane `id` being `id` and bit `id mod 8` of payload byte `id div 8`. -/
def Obligations.DecodeStatusUnpacksLanes : Prop :=
  ∀ (f : Bytes) (s : State), Instr.wellFormed s.cfg (.decodeStatus f) = true →
    ((frameLength f < 8 ∨ byteAt f 4 ≠ s.cfg.instrStatusResp) →
      exec (.decodeStatus f) s = .next { s with ret := .statuses none }) ∧
    (8 ≤ frameLength f ∧ byteAt f 4 = s.cfg.instrStatusResp →
      ∃ d : List (Byte × CabState), exec (.decodeStatus f) s = .next { s with ret := .statuses (some d) } ∧
        d.length = 48 ∧
        ∀ id, id < 48 → d[id]? = some (BitVec.ofNat 8 id,
          if (byteAt f (5 + id / 8)).getLsbD (id % 8) then .available else .unavailable))

/-! ## Wire instructions -/

/-- R77, R203. In a free send slot, with CONN = Connected, OPEN writes the seven bytes of F-OPEN and the job waits for its
TxDone: the job step has not progressed. Nothing else changes but ACC, which holds the frame's checksum.
(That ACC keeps it, and that the wire row OPEN is this send slot, are the model's readings: log entries 7 and 8.) -/
def Obligations.OpenWritesItsFrame : Prop :=
  ∀ (id : Byte) (j : OpenJob) (s : State), s.active = some (.openJob j) → j.phase = .ready →
    j.ids[j.k]? = some id → s.nextSendAt ≤ s.now → s.conn = .connected →
    let body : Bytes := [s.cfg.hdr0, s.cfg.hdr1, 0x03#8, s.cfg.address, s.cfg.instrOpen, id]
    exec (.openFrame id) s = .next { s with
      acc := checksumFn s.cfg.poly body
      active := some (.openJob { j with phase := .awaitTx })
      out := s.out ++ [.txFrame (body ++ [checksumFn s.cfg.poly body])] } ∧
    (jobStep (.openJob j) s).2 = false

/-- R202. Before NEXT_SEND_AT an OPEN changes nothing and the job step has not progressed; after it, with CONN ≠ Connected,
the ID fails NotConnected, no frame is written, and the job step has progressed. (That the wire row OPEN is this
send slot is the model's reading: log entry 8.) -/
def Obligations.OpenWaitsOrFailsNotConnected : Prop :=
  ∀ (id : Byte) (j : OpenJob) (s : State), s.active = some (.openJob j) → j.phase = .ready →
    j.ids[j.k]? = some id →
    (s.now < s.nextSendAt → exec (.openFrame id) s = .next s ∧ (jobStep (.openJob j) s).2 = false) ∧
    (s.nextSendAt ≤ s.now → s.conn ≠ .connected →
      exec (.openFrame id) s = .next { s with
        active := some (.openJob { j with
          failed := j.failed ++ [{ id := id, error := .transport .notConnected }], k := j.k + 1 })
        nextSendAt := s.now + s.cfg.settleTime } ∧ (jobStep (.openJob j) s).2 = true)

/-- R78, R209. STATUS_REQ before NEXT_SEND_AT changes nothing; after it, with CONN ≠ Connected, the job resolves
NotConnected without a write; with CONN = Connected the six bytes of F-SREQ are written and the job waits for its TxDone.
Only the second of these progresses. (That ACC keeps the frame's checksum, and that the wire row STATUS_REQ is this send
slot, are the model's readings: log entries 7 and 8.) -/
def Obligations.StatusReqSlot : Prop :=
  ∀ (j : StatusJob) (s : State), s.active = some (.statusJob j) → j.phase = .ready →
    let body : Bytes := [s.cfg.hdr0, s.cfg.hdr1, 0x02#8, s.cfg.address, s.cfg.instrStatusReq]
    (s.now < s.nextSendAt → exec .statusReq s = .next s ∧ (jobStep (.statusJob j) s).2 = false) ∧
    (s.nextSendAt ≤ s.now → s.conn ≠ .connected →
      exec .statusReq s = .next { s with
        active := none
        nextSendAt := s.now + s.cfg.settleTime
        out := s.out ++ [.response j.ticket (.status false (s.cabMap.map Prod.snd) .notConnected)] } ∧
      (jobStep (.statusJob j) s).2 = true) ∧
    (s.nextSendAt ≤ s.now → s.conn = .connected →
      exec .statusReq s = .next { s with
        acc := checksumFn s.cfg.poly body
        active := some (.statusJob { j with phase := .awaitTx })
        out := s.out ++ [.txFrame (body ++ [checksumFn s.cfg.poly body])] } ∧
      (jobStep (.statusJob j) s).2 = false)

/-- R79, R212. A STATUS_RESP is reported as a valid frame and marks IDs 0 to 47 from its bits with the time NOW; IDs 48 to
255 keep their entries. An Awaiting status job resolves Fresh with the new snapshot, an AwaitTx one remembers the
response, and no other job changes. Nothing else changes but ACC. -/
def Obligations.StatusRespMergesAndResolves : Prop :=
  ∀ (a s0 s1 s2 s3 s4 s5 : Byte) (extra : Bytes) (s : State), extra.length ≤ 247 →
    ∃ t : State, exec (.statusResp a s0 s1 s2 s3 s4 s5 extra) s = .next t ∧
      (∀ id : Byte, t.mapGet id =
        if id.toNat < 48 then some { id := id, lastUpdatedAt := s.now, state :=
          if (byteAt [s0, s1, s2, s3, s4, s5] (id.toNat / 8)).getLsbD (id.toNat % 8) then .available else .unavailable }
        else s.mapGet id) ∧
      (match s.active with
        | some (.statusJob j) => match j.phase with
          | .awaiting => t.active = none ∧
              t.out = s.out ++ [.frame (statusRespFrame s.cfg a s0 s1 s2 s3 s4 s5 extra) true,
                .response j.ticket (.status (decide (s.conn = .connected)) t.snapshot .fresh)]
          | .awaitTx => t.active = some (.statusJob { j with respSeen := true }) ∧
              t.out = s.out ++ [.frame (statusRespFrame s.cfg a s0 s1 s2 s3 s4 s5 extra) true]
          | .ready => t.active = s.active ∧
              t.out = s.out ++ [.frame (statusRespFrame s.cfg a s0 s1 s2 s3 s4 s5 extra) true]
        | _ => t.active = s.active ∧
            t.out = s.out ++ [.frame (statusRespFrame s.cfg a s0 s1 s2 s3 s4 s5 extra) true]) ∧
      t = { s with acc := t.acc, cabMap := t.cabMap, active := t.active, out := t.out }

/-- R80, R82, R211, R219. Every other frame is reported and discarded with the diagnostic of the first check of R80 that
applies; MAP, the jobs and everything else but ACC keep their values. (That ACC keeps the
checksum computed for the validation is the model's reading: log entry 7.) -/
def Obligations.InboundOtherIsDiscarded : Prop :=
  ∀ (f : Bytes) (s : State), Instr.wellFormed s.cfg (.inboundOther f) = true →
    exec (.inboundOther f) s = .next { s with
      acc := checksumFn s.cfg.poly f.dropLast
      out := s.out ++ [.frame f (validateFn s.cfg.poly f), .diag (
        if validateFn s.cfg.poly f = false then .checksumMismatch (hexdumpFn f)
        else if frameLength f < 2 then .unrecognizedFrame (hexdumpFn f)
        else if byteAt f 4 = s.cfg.instrStatusResp then .shortStatus (hexdumpFn f)
        else .unrecognizedInstruction (byteAt f 4))] }

/-- R165, R166. Neither the ADDRESS byte nor the bytes after the sixth status byte of a status response influence the map
or the jobs. -/
def Obligations.AddressAndExtraBytesDoNotMatter : Prop :=
  ∀ (a a' s0 s1 s2 s3 s4 s5 : Byte) (extra extra' : Bytes) (s : State),
    extra.length ≤ 247 → extra'.length ≤ 247 →
    ∃ t t' : State, exec (.statusResp a s0 s1 s2 s3 s4 s5 extra) s = .next t ∧
      exec (.statusResp a' s0 s1 s2 s3 s4 s5 extra') s = .next t' ∧
      t.cabMap = t'.cabMap ∧ t.active = t'.active ∧
      t.out.drop (s.out.length + 1) = t'.out.drop (s.out.length + 1)

/-- R211, R250. RX reassembles its chunk, runs the wire instruction that each frame decodes to, in stream order, and then
runs Advance(). (That the reassembly's signals come before the first frame's handling is the model's reading: log
entry 10.) -/
def Obligations.RxRunsTheDecodedFrames : Prop :=
  ∀ (chunk : Bytes) (s : State), ∃ (is : List Instr) (t : State),
    (reassemble chunk s).2.map (fun p => decodeInbound s.cfg p.1) = is.map .ok ∧
    execAll is (reassemble chunk s).1 = .next t ∧
    exec (.rx chunk) s = .next (advance t)

/-! ## Host calls -/

/-- R190, R191. CONNECT takes a ticket; from Disconnected or Faulted it opens the port and waits, from Connecting or
Connected it is answered AlreadyConnected. -/
def Obligations.ConnectOpensThePortOrIsRefused : Prop :=
  ∀ (path : OpaqueValue) (baud : Nat) (s : State),
    (s.conn = .disconnected ∨ s.conn = .faulted →
      exec (.connect path baud) s = .next (advance { s with
        nextTicket := s.nextTicket + 1
        conn := .connecting
        connectTicket := some s.nextTicket
        out := s.out ++ [.openPort path baud] })) ∧
    (s.conn = .connecting ∨ s.conn = .connected →
      exec (.connect path baud) s = .next (advance { s with
        nextTicket := s.nextTicket + 1
        out := s.out ++ [.response s.nextTicket (.connectError .alreadyConnected)] }))

/-- R194. DISCONNECT answers a pending connect with Aborted, closes the port and answers Ok, in every state of the
connection. (A connect is pending exactly when CONN = Connecting, I5 of R44.) -/
def Obligations.DisconnectAlwaysSucceeds : Prop :=
  ∀ s : State, (s.connectTicket.isSome ↔ s.conn = .connecting) →
    exec .disconnect s = .next (advance { s with
      nextTicket := s.nextTicket + 1
      conn := .disconnected
      connectTicket := none
      out := s.out ++
        (match s.connectTicket with
          | some t => [.response t (.connectError .aborted)]
          | none => []) ++
        [.closePort, .response s.nextTicket .ok] })

/-- R199, R200, R251. OPEN_CABINETS is answered Empty for no IDs, OutOfRange of the first ID outside 0..255 in list order,
and otherwise queues one open job of those IDs as bytes. -/
def Obligations.OpenCabinetsValidatesThenQueues : Prop :=
  (∀ s : State, exec (.openCabinets []) s = .next (advance { s with
    nextTicket := s.nextTicket + 1
    out := s.out ++ [.response s.nextTicket (.structuralInputError .empty)] })) ∧
  (∀ (pre post : List Int) (v : Int) (s : State), (∀ x ∈ pre, 0 ≤ x ∧ x ≤ 255) → ¬ (0 ≤ v ∧ v ≤ 255) →
    exec (.openCabinets (pre ++ v :: post)) s = .next (advance { s with
      nextTicket := s.nextTicket + 1
      out := s.out ++ [.response s.nextTicket (.structuralInputError (.outOfRange v))] })) ∧
  (∀ (ids : List Int) (s : State), ids ≠ [] → (∀ x ∈ ids, 0 ≤ x ∧ x ≤ 255) →
    ∃ bs : Bytes, bs.map (fun b => (b.toNat : Int)) = ids ∧
      exec (.openCabinets ids) s = .next (advance { s with
        nextTicket := s.nextTicket + 1
        queue := s.queue ++ [.openJob
          { ticket := s.nextTicket, ids := bs, k := 0, opened := [], failed := [], phase := .ready }] }))

/-- R207, R208. GET_STATUS(false) is answered at once with the snapshot; GET_STATUS(true) queues a status job. -/
def Obligations.GetStatusCachedOrQueued : Prop :=
  ∀ s : State,
    exec (.getStatus false) s = .next (advance { s with
      nextTicket := s.nextTicket + 1
      out := s.out ++ [.response s.nextTicket
        (.status (decide (s.conn = .connected)) (s.cabMap.map Prod.snd) .notRequested)] }) ∧
    exec (.getStatus true) s = .next (advance { s with
      nextTicket := s.nextTicket + 1
      queue := s.queue ++ [.statusJob
        { ticket := s.nextTicket, phase := .ready, deadline := none, respSeen := false }] })

/-- R181, R182, R216. RESET_STATUS clears the whole map, answers Ok and touches nothing else. (The call takes its ticket
as every host call does, R182; R272's list names NEXT_TICKET among what is kept. That the counter moves is the model's
reading: log entry 14.) -/
def Obligations.ResetStatusClearsTheMapOnly : Prop :=
  ∀ s : State, exec .resetStatus s = .next (advance { s with
    nextTicket := s.nextTicket + 1, cabMap := [], out := s.out ++ [.response s.nextTicket .ok] })

/-! ## Transport and timer events -/

/-- R192, R193. While Connecting, CONNECT_DONE answers the pending connect call: Ok makes the engine Connected, Err(e)
Faulted. -/
def Obligations.ConnectDoneAnswersTheCall : Prop :=
  ∀ (ct : Nat) (s : State), s.conn = .connecting → s.connectTicket = some ct →
    exec (.connectDone .ok) s = .next (advance { s with
      conn := .connected, connectTicket := none, out := s.out ++ [.response ct .connectedOk] }) ∧
    ∀ e : OpaqueValue, exec (.connectDone (.err e)) s = .next (advance { s with
      conn := .faulted, connectTicket := none
      out := s.out ++ [.response ct (.connectError (.transport e))] })

/-- R204, R205. TX_DONE for an open job: Ok marks the cabinet Opened at NOW and records the success, Err(e) records the
failure and leaves the map; both move to the next ID and start the settle time. -/
def Obligations.TxDoneRecordsTheCabinet : Prop :=
  ∀ (j : OpenJob) (id : Byte) (s : State), s.active = some (.openJob j) → j.phase = .awaitTx →
    j.ids[j.k]? = some id →
    exec (.txDone .ok) s = .next (advance { s with
      cabMap := s.cabMap.put id.toNat { id := id, state := .opened, lastUpdatedAt := s.now }
      active := some (.openJob { j with
        opened := j.opened ++ [{ id := id, openedAt := s.now }], k := j.k + 1, phase := .ready })
      nextSendAt := s.now + s.cfg.settleTime }) ∧
    ∀ e : OpaqueValue, exec (.txDone (.err e)) s = .next (advance { s with
      active := some (.openJob { j with
        failed := j.failed ++ [{ id := id, error := .transport (.transport e) }], k := j.k + 1, phase := .ready })
      nextSendAt := s.now + s.cfg.settleTime })

/-- R210. TX_DONE for a status job: an error resolves TransportError(e), a response seen before resolves Fresh, and
otherwise the timeout is armed at NOW + STATUS_TIMEOUT; all start the settle time. -/
def Obligations.TxDoneArmsTheTimeout : Prop :=
  ∀ (j : StatusJob) (s : State), s.active = some (.statusJob j) → j.phase = .awaitTx →
    (∀ e : OpaqueValue, exec (.txDone (.err e)) s = .next (advance { s with
      active := none
      nextSendAt := s.now + s.cfg.settleTime
      out := s.out ++ [.response j.ticket
        (.status (decide (s.conn = .connected)) (s.cabMap.map Prod.snd) (.transportError e))] })) ∧
    (j.respSeen = true → exec (.txDone .ok) s = .next (advance { s with
      active := none
      nextSendAt := s.now + s.cfg.settleTime
      out := s.out ++ [.response j.ticket
        (.status (decide (s.conn = .connected)) (s.cabMap.map Prod.snd) .fresh)] })) ∧
    (j.respSeen = false → exec (.txDone .ok) s = .next (advance { s with
      active := some (.statusJob
        { j with phase := .awaiting, deadline := some (s.now + s.cfg.statusTimeout) })
      nextSendAt := s.now + s.cfg.settleTime }))

/-- R217. A TxDone when no job is in phase AwaitTx, and a ConnectDone when CONN ≠ Connecting, change no state and are
signalled. (Advance() of a state that every event leaves changes nothing either.) A completion that answers an
outstanding request (R257), and any other event, is never signalled so. -/
def Obligations.SpuriousCompletionsAreIgnored : Prop :=
  (∀ (r : TransportResult) (s : State), s.Quiescent →
    (s.writeOutstanding = false → exec (.txDone r) s =
      .next { s with out := s.out ++ [.diag (.spuriousTransportEvent .txDone)] }) ∧
    (s.conn ≠ .connecting → exec (.connectDone r) s =
      .next { s with out := s.out ++ [.diag (.spuriousTransportEvent .connectDone)] })) ∧
  ∀ (i : Instr) (s t : State) (k : SpuriousKind), s.Inv → Dutiful i s → exec i s = .next t →
    .diag (.spuriousTransportEvent k) ∉ emitted s t

/-- R195. LINE_LOST while Connected makes the engine Faulted and is signalled; in every other state it is ignored. -/
def Obligations.LineLostFaultsAConnectedEngine : Prop :=
  ∀ s : State, s.Quiescent →
    (s.conn = .connected → exec .lineLost s =
      .next { s with conn := .faulted, out := s.out ++ [.diag .lineLost] }) ∧
    (s.conn ≠ .connected → exec .lineLost s = .next s)

/-- R183, R215. TICK(t) moves NOW to t when t is later; then a status job whose deadline has come is signalled and
resolved TimedOut; then Advance(). -/
def Obligations.TickAdvancesTimeAndTimesOut : Prop :=
  ∀ (t : Nat) (s : State),
    (∀ (j : StatusJob) (d : Nat), s.active = some (.statusJob j) → j.phase = .awaiting → j.deadline = some d →
      d ≤ max s.now t →
      exec (.tick t) s = .next (advance { s with
        now := max s.now t
        active := none
        out := s.out ++ [.diag .frameTimeout, .response j.ticket
          (.status (decide (s.conn = .connected)) (s.cabMap.map Prod.snd) .timedOut)] })) ∧
    ((∀ (j : StatusJob) (d : Nat), s.active = some (.statusJob j) → j.phase = .awaiting → j.deadline = some d →
      max s.now t < d) →
      exec (.tick t) s = .next (advance { s with now := max s.now t }))

/-! ## Advance() -/

/-- R196, R197. Advance() is the loop of R196: dequeue the head when no job is active, return when the active job is not
Ready, make one job step, and go on exactly while it progressed. (The model's loop has fuel; this says it suffices.) The
job step of a Ready job with something left to send is the wire instruction OPEN of its current ID, or STATUS_REQ (the
model's reading of those two rows: log entry 8). -/
def Obligations.AdvanceIsTheLoop : Prop :=
  ∀ s : State,
    (s.active = none → s.queue = [] → advance s = s) ∧
    (∀ (j : Job) (rest : List Job), s.active = none → s.queue = j :: rest →
      advance s = advance { s with active := some j, queue := rest }) ∧
    (∀ j : Job, s.active = some j → j.isReady = false → advance s = s) ∧
    (∀ j : Job, s.active = some j → j.isReady = true →
      advance s = if (jobStep j s).2 then advance (jobStep j s).1 else (jobStep j s).1) ∧
    (∀ (j : OpenJob) (id : Byte), s.active = some (.openJob j) → j.phase = .ready → j.ids[j.k]? = some id →
      exec (.openFrame id) s = .next (jobStep (.openJob j) s).1) ∧
    (∀ j : StatusJob, s.active = some (.statusJob j) → j.phase = .ready →
      exec .statusReq s = .next (jobStep (.statusJob j) s).1)

/-- R201. The step of a finished batch emits its response and ends the job; no pacing wait applies. -/
def Obligations.FinishedBatchIsAnswered : Prop :=
  ∀ (j : OpenJob) (s : State), s.active = some (.openJob j) → j.phase = .ready → j.k = j.ids.length →
    jobStep (.openJob j) s =
      ({ s with active := none, out := s.out ++ [.response j.ticket (.openResult j.opened j.failed)] }, true) ∧
    advance s = advance { s with
      active := none, out := s.out ++ [.response j.ticket (.openResult j.opened j.failed)] }

/-- R196. After every event no job waits behind nothing, a Ready job has something left to send and it waits for pacing;
and where that holds already, Advance() changes nothing. -/
def Obligations.AdvanceRunsAsFarAsItCan : Prop :=
  (∀ (i : Instr) (s t : State), i.isEvent = true → exec i s = .next t → t.Quiescent) ∧
  ∀ s : State, s.Quiescent → advance s = s

/-- The frame of Advance(): CONN, MAP, RXBUF, NOW, the tickets, CFG, the pending events and the returned value keep their
values, the queue loses jobs from its front only, NEXT_SEND_AT moves to NOW + SETTLE_TIME or not at all, and only written
frames and responses are appended to the outputs. -/
def Obligations.AdvanceFrame : Prop :=
  ∀ s : State, ∃ (n : Nat) (os : List Output), advance s = { s with
    acc := (advance s).acc
    queue := s.queue.drop n
    active := (advance s).active
    nextSendAt := (advance s).nextSendAt
    out := s.out ++ os } ∧
    ((advance s).nextSendAt = s.nextSendAt ∨ (advance s).nextSendAt = s.now + s.cfg.settleTime) ∧
    ∀ o ∈ os, (∃ f, o = .txFrame f) ∨ ∃ tk v, o = .response tk v

/-! ## The whole machine -/

/-- The model's form of R44, first half: the constructed engine meets the invariants, for every valid CFG. -/
def Obligations.ConstructionMeetsTheInvariants : Prop :=
  State.reset.Inv ∧ ∀ c : Cfg, c.valid = true → (State.constructed c).Inv

/-- R44, I1 to I7, with the invariants of 10_state.md's other rules: every step keeps them. -/
def Obligations.EveryStepKeepsTheInvariants : Prop :=
  ∀ s t : State, s.Inv → step s = .next t → t.Inv

/-- R240. Every event has a successor state, in every state; an instruction other than BUILD never stops the engine. -/
def Obligations.NoEventStopsTheEngine : Prop :=
  (∀ (i : Instr) (s : State), i.isEvent = true → ∃ t : State, exec i s = .next t) ∧
  ∀ (i : Instr) (s : State), (∀ p a c, i ≠ .build p a c) → ∃ t : State, exec i s = .next t

/-- R220, R254. A step writes at most one frame. Where it writes one, the engine is Connected, NOW has reached
NEXT_SEND_AT, and the write is then outstanding. While a write is outstanding, only a TxDone can end that, and no other
event writes. -/
def Obligations.AtMostOneWriteOutstanding : Prop :=
  ∀ s t : State, s.Inv → step s = .next t →
    (txFrames (emitted s t)).length ≤ 1 ∧
    (txFrames (emitted s t) ≠ [] → t.conn = .connected ∧ t.nextSendAt ≤ t.now ∧ t.writeOutstanding = true) ∧
    (s.writeOutstanding = true → (∀ r, s.pending ≠ some (.txDone r)) →
      txFrames (emitted s t) = [] ∧ t.writeOutstanding = true)

/-- R220, R277. Between the TxDone that ends one send slot and the next frame written, in the same step or after any run
of steps, NOW advances by at least SETTLE_TIME. -/
def Obligations.SettleTimeBetweenWrites : Prop :=
  ∀ (s t u v : State) (r : TransportResult), s.Inv → s.writeOutstanding = true → s.pending = some (.txDone r) →
    step s = .next t →
    (txFrames (emitted s t) ≠ [] → s.now + s.cfg.settleTime ≤ t.now) ∧
    (Steps t u → step u = .next v → txFrames (emitted u v) ≠ [] → s.now + s.cfg.settleTime ≤ v.now)

/-- R83, R129. Every frame written is the F-OPEN frame of some cabinet ID or the F-SREQ frame. -/
def Obligations.OnlyTwoFrameFormatsAreWritten : Prop :=
  ∀ (i : Instr) (s t : State) (f : Bytes), exec i s = .next t → f ∈ txFrames (emitted s t) →
    (∃ id : Byte,
      f = sealFrame s.cfg.poly [s.cfg.hdr0, s.cfg.hdr1, 0x03#8, s.cfg.address, s.cfg.instrOpen, id]) ∨
    f = sealFrame s.cfg.poly [s.cfg.hdr0, s.cfg.hdr1, 0x02#8, s.cfg.address, s.cfg.instrStatusReq]

/-- R197, R182. The queued calls are answered once each, in the order of the calls: the tickets answered so far followed
by those of the unresolved jobs only ever grow, by the ticket of a call that is queued. -/
def Obligations.QueuedCallsAreAnsweredOnceInOrder : Prop :=
  ∀ s t : State, step s = .next t →
    ∃ new : List Nat, (new = [] ∨ new = [s.nextTicket]) ∧
      jobResponses t.out ++ t.jobs.map Job.ticket = jobResponses s.out ++ s.jobs.map Job.ticket ++ new

/-- R206. The response to a batch lists every ID of the batch exactly once per occurrence, in input order, split between
`opened` and `failed`. -/
def Obligations.BatchResponseListsEveryId : Prop :=
  ∀ (s t : State) (tk : Nat) (opened : List CabinetOpenResult) (failed : List CabinetFailResult),
    s.Inv → step s = .next t → .response tk (.openResult opened failed) ∈ emitted s t →
    ∃ ids : Bytes, BatchSplit ids opened failed ∧ opened.length + failed.length = ids.length ∧
      ((∃ j : OpenJob, .openJob j ∈ s.jobs ∧ j.ticket = tk ∧ j.ids = ids) ∨
       (∃ vs : List Int, s.pending = some (.openCabinets vs) ∧ tk = s.nextTicket ∧
          ids.map (fun b => (b.toNat : Int)) = vs))

/-- R184. CONN moves exactly by the transition table, whatever the instruction. -/
def Obligations.ConnFollowsTheTransitionTable : Prop :=
  ∀ (i : Instr) (s t : State), exec i s = .next t → t.conn = connAfter s.conn i

/-- R26. MAP changes only by a successful open write, by a status response, and by the reset; and an entry is deleted only
by the reset. -/
def Obligations.MapChangesOnlyByItsThreeWriters : Prop :=
  ∀ (i : Instr) (s t : State), exec i s = .next t →
    (t.cabMap ≠ s.cabMap →
      i = .resetStatus ∨
      (i = .txDone .ok ∧ ∃ j, s.active = some (.openJob j) ∧ j.phase = .awaitTx) ∨
      (∃ chunk, i = .rx chunk ∧ ∃ p ∈ (reassemble chunk s).2, isStatusResponse s.cfg p.1 = true) ∨
      (∃ a s0 s1 s2 s3 s4 s5 extra, i = .statusResp a s0 s1 s2 s3 s4 s5 extra) ∨
      (∃ f, i = .inboundOther f ∧ isStatusResponse s.cfg f = true)) ∧
    (i ≠ .resetStatus → ∀ id : Byte, s.mapGet id ≠ none → t.mapGet id ≠ none)

/-- R27, R33, R39. CFG never changes; NOW never decreases and changes only to the time of a TICK; RXBUF is written only by
the reassembler; outputs are only appended. -/
def Obligations.CfgFixedTimeByTickBufferByReassembler : Prop :=
  ∀ (i : Instr) (s t : State), exec i s = .next t →
    t.cfg = s.cfg ∧ s.now ≤ t.now ∧ (t.now ≠ s.now → i = .tick t.now) ∧
    (t.rxbuf ≠ s.rxbuf → ∃ chunk, i = .rx chunk ∨ i = .reassemble chunk) ∧
    s.out <+: t.out

/-- R52, R214. Map primitives: reading after a write gives the written entry and leaves every other ID's; after MapClear()
every ID reads `None`; the canonical form is kept; and the snapshot of a canonical map whose entries carry their own IDs
lists exactly the present entries, in ascending ID order. -/
def Obligations.MapReadAfterWriteAndSnapshot : Prop :=
  (∀ (m : CabinetMap) (i k : Nat) (v : CabinetStatus), (m.put i v).get k = if k = i then some v else m.get k) ∧
  (∀ (id : Byte) (s : State), s.mapClear.mapGet id = none) ∧
  (∀ (m : CabinetMap) (i : Nat) (v : CabinetStatus), Memory.wf m = true → i < 256 → Memory.wf (m.put i v) = true) ∧
  (∀ s : State, Memory.wf s.cabMap = true → (∀ e ∈ s.cabMap, e.2.id.toNat = e.1) →
    s.snapshot.Pairwise (fun a b => a.id.toNat < b.id.toNat) ∧
    ∀ st : CabinetStatus, st ∈ s.snapshot ↔ s.mapGet st.id = some st)

/-- R249, R282. A status response and the TICK that reaches the deadline, in both orders: response first resolves Fresh,
tick first resolves TimedOut; the request is answered once in either order. -/
def Obligations.ResponseAndDeadlineRace : Prop :=
  ∀ (j : StatusJob) (d t : Nat) (a s0 s1 s2 s3 s4 s5 : Byte) (s : State),
    s.active = some (.statusJob j) → j.phase = .awaiting → j.deadline = some d → d ≤ t → s.queue = [] →
    s.rxbuf = [] → 12 ≤ s.cfg.bufCap →
    let f := statusRespFrame s.cfg a s0 s1 s2 s3 s4 s5 []
    (∃ (u : State) (b : Bool) (cs : List CabinetStatus),
      execAll [.rx f, .tick t] s = .next u ∧
      u.out = s.out ++ [.frame f true, .response j.ticket (.status b cs .fresh)]) ∧
    (∃ (u : State) (b : Bool) (cs : List CabinetStatus),
      execAll [.tick t, .rx f] s = .next u ∧
      u.out = s.out ++ [.diag .frameTimeout, .response j.ticket (.status b cs .timedOut), .frame f true])

/-- R198, R203, R276. A Ready open job of a Connected engine writes its next frame in the TICK that reaches
NEXT_SEND_AT. -/
def Obligations.TickStartsThePacedWrite : Prop :=
  ∀ (j : OpenJob) (id : Byte) (t : Nat) (s : State), s.active = some (.openJob j) → j.phase = .ready →
    j.ids[j.k]? = some id → s.conn = .connected → s.nextSendAt ≤ t →
    ∃ u : State, exec (.tick t) s = .next u ∧ u.writeOutstanding = true ∧
      txFrames (emitted s u) =
        [sealFrame s.cfg.poly [s.cfg.hdr0, s.cfg.hdr1, 0x03#8, s.cfg.address, s.cfg.instrOpen, id]]

/-! ## Encoding and stepping -/

/-- Decoding the encoding of a well-formed instruction gives it back, with every operand, for every event and every wire
instruction. (The layout of event operands is the model's: log entry 4.) -/
def Obligations.DecodeInvertsEncode : Prop :=
  ∀ (c : Cfg) (i : Instr) (w : Coded), i.wellFormed c = true → encode c i = some w → decode c w = .ok i

/-- R81, R85. A frame has one meaning: what an inbound or outbound frame decodes to encodes to that very frame. -/
def Obligations.FramesHaveOneMeaning : Prop :=
  ∀ (c : Cfg) (i : Instr) (w : Coded), w.port ≠ .event → decode c w = .ok i → encode c i = some w

/-- R90. Whatever decodes is a well-formed instruction of the port it was read from, so never an internal operation; and
every frame cut from the stream decodes. -/
def Obligations.DecodedIsWellFormedAndNeverInternal : Prop :=
  (∀ (c : Cfg) (w : Coded) (i : Instr), decode c w = .ok i → i.wellFormed c = true ∧ i.port = some w.port) ∧
  ∀ (c : Cfg) (f : Bytes), isFrame c f = true → ∃ i, decodeInbound c f = .ok i

/-- R88. The record of each event begins with the selector of its kind; the ten selectors are distinct and each is found;
any other first byte is refused by name. (The bytes after the selector are the model's layout: log entry 4.) -/
def Obligations.SelectorsAreAClosedTable : Prop :=
  (∀ c : Cfg,
    (∀ path baud, ∃ bs, encode c (.connect path baud) = some ⟨.event, 0x01#8 :: bs⟩) ∧
    (∃ bs, encode c .disconnect = some ⟨.event, 0x02#8 :: bs⟩) ∧
    (∀ ids, ∃ bs, encode c (.openCabinets ids) = some ⟨.event, 0x03#8 :: bs⟩) ∧
    (∀ fresh, ∃ bs, encode c (.getStatus fresh) = some ⟨.event, 0x04#8 :: bs⟩) ∧
    (∃ bs, encode c .resetStatus = some ⟨.event, 0x05#8 :: bs⟩) ∧
    (∀ r, ∃ bs, encode c (.connectDone r) = some ⟨.event, 0x10#8 :: bs⟩) ∧
    (∀ r, ∃ bs, encode c (.txDone r) = some ⟨.event, 0x11#8 :: bs⟩) ∧
    (∀ chunk, ∃ bs, encode c (.rx chunk) = some ⟨.event, 0x12#8 :: bs⟩) ∧
    (∃ bs, encode c .lineLost = some ⟨.event, 0x13#8 :: bs⟩) ∧
    (∀ t, ∃ bs, encode c (.tick t) = some ⟨.event, 0x20#8 :: bs⟩)) ∧
  (∀ k k' : EventKind, k.selector = k'.selector → k = k') ∧
  (∀ k : EventKind, EventKind.ofSelector k.selector = some k) ∧
  ∀ (b : Byte) (bs : Bytes), b ∉ [0x01#8, 0x02#8, 0x03#8, 0x04#8, 0x05#8, 0x10#8, 0x11#8, 0x12#8, 0x13#8, 0x20#8] →
    decodeEvent (b :: bs) = .error (.unknownSelector b)

/-- Words written out from the selectors of R88 and the frame formats of R85 decode to what they stand for. (The model's
choices: zero operand bytes after the word of TICK, log entry 4; a word below 32 bits is an event record, log entry 18.) -/
def Obligations.WrittenOutWordsDecode : Prop :=
  decodeTableWord 8 0x02 = some .disconnect ∧
  decodeTableWord 8 0x05 = some .resetStatus ∧
  decodeTableWord 8 0x13 = some .lineLost ∧
  decodeTableWord 8 0x20 = some (.tick 0) ∧
  ∀ (c : Cfg) (id : Byte), decodeOutbound c
    [c.hdr0, c.hdr1, 0b00000011#8, c.address, c.instrOpen, id,
      checksumFn c.poly [c.hdr0, c.hdr1, 0b00000011#8, c.address, c.instrOpen, id]] = .ok (.openFrame id)

/-- R15, R61, R261. A step takes the next pending record and runs the event it decodes to; with nothing pending the engine
is idle and its state survives; a record that is no event is refused by name. A table word put by `withFetchWord` is what
the next step runs. (The model's choices: the store of pending records, log entry 5; the refusal of a record that is no
event, log entry 11; how `withFetchWord` places a word and reads one below 32 bits as an event, log entries 9 and 18; the
byte order of the word, log entry 23.) -/
def Obligations.StepRunsTheDecodedEvent : Prop :=
  (∀ s : State, s.inbox = [] → step s = .next s) ∧
  (∀ (s : State) (r : Bytes) (rest : List Bytes) (i : Instr), s.inbox = r :: rest → decodeEvent r = .ok i →
    step s = exec i { s with inbox := rest }) ∧
  (∀ (s : State) (r : Bytes) (rest : List Bytes) (e : DecodeError), s.inbox = r :: rest → decodeEvent r = .error e →
    step s = .refused (.undecodable e)) ∧
  ∀ (s : State) (nbits w : Nat) (i : Instr), nbits < 32 → decodeTableWord nbits w = some i →
    step (s.withFetchWord nbits w) = exec i s

/-! ## Construction, reset, errors -/

/-- R43, R270, R271, R40. Construction with a CFG that meets the constraints gives the state of R43, with a collision of the
codes reported as the first output; a CFG that violates a constraint is refused. `State.reset` is what construction with
`Config.cfg` gives. (The inbox and the returned value are the model's own fields: log entries 5 and 6.) -/
def Obligations.ConstructionOrRefusal : Prop :=
  construct Config.cfg = .next State.reset ∧
  ∀ c : Cfg,
    (259 ≤ c.bufCap ∧ (c.instrOpen = 0x50#8 ∨ c.instrOpen = 0x51#8) ∧ 1 ≤ c.statusTimeout →
      construct c = .next {
        cfg := c, acc := 0#8, conn := .disconnected, cabMap := [], rxbuf := [], queue := [], active := none
        now := 0, nextTicket := 0, nextSendAt := 0, connectTicket := none, inbox := []
        out := if c.instrOpen = c.instrStatusReq ∨ c.instrOpen = c.instrStatusResp
          then [.diag (.configCollision c.instrOpen c.instrStatusReq c.instrStatusResp)] else []
        ret := .none }) ∧
    (¬ (259 ≤ c.bufCap ∧ (c.instrOpen = 0x50#8 ∨ c.instrOpen = 0x51#8) ∧ 1 ≤ c.statusTimeout) →
      construct c = .refused .configRefused)

/-- R275. From reset, connect answered Ok and one valid batch lead to the first frame written: that of the batch's first
ID. -/
def Obligations.BootReachesTheFirstFrame : Prop :=
  ∀ (path : OpaqueValue) (baud : Nat) (id : Byte) (ids : Bytes),
    ∃ u : State,
      execAll [.connect path baud, .connectDone .ok,
        .openCabinets ((id :: ids).map fun b => (b.toNat : Int))] State.reset = .next u ∧
      u.conn = .connected ∧ u.writeOutstanding = true ∧
      txFrames u.out = [sealFrame u.cfg.poly [u.cfg.hdr0, u.cfg.hdr1, 0x03#8, u.cfg.address, u.cfg.instrOpen, id]]

/-- R241. The codes of the error kinds, and where each error is delivered. -/
def Obligations.ErrorCodesAndDelivery : Prop :=
  (∀ e, (ErrorValue.structuralInput e).code = 1 ∧
    ∀ tk, (Output.response tk (.structuralInputError e)).errors = [.structuralInput e]) ∧
  (∀ e, (ErrorValue.transport e).code = 2) ∧
  (∀ tk o fs, (Output.response tk (.openResult o fs)).errors = fs.map CabinetFailResult.error) ∧
  (∀ tk b cs e, (Output.response tk (.status b cs (.transportError e))).errors = [.transport (.transport e)]) ∧
  (∀ tk b cs, (Output.response tk (.status b cs .notConnected)).errors = [.transport .notConnected]) ∧
  (∀ hex, (ErrorValue.checksumMismatch hex).code = 3 ∧
    (Output.diag (.checksumMismatch hex)).errors = [.checksumMismatch hex]) ∧
  ErrorValue.frameTimeout.code = 4 ∧ (Output.diag .frameTimeout).errors = [.frameTimeout] ∧
  (∀ tk b cs, (Output.response tk (.status b cs .timedOut)).errors = [.frameTimeout]) ∧
  (∀ n, (ErrorValue.bufferOverflow n).code = 5 ∧
    (Output.diag (.bufferOverflow n)).errors = [.bufferOverflow n]) ∧
  (∀ e, (ErrorValue.connect e).code = 6 ∧
    ∀ tk, (Output.response tk (.connectError e)).errors = [.connect e])
end

