-- ==== Sys2Proof/Laws/Datapath.lean ====
section
/-! SUPPORT. The laws of the datapath's pure functions: the checksum over appended sequences and its linearity (R107), the
validity of sealed frames, the fields of a frame. -/

namespace Sys2Proof

/-! Checksum -/

/-- The checksum goes through a sequence from left to right (R104). -/
theorem checksumFn_append (p : Byte) (a b : Bytes) :
    checksumFn p (a ++ b) = b.foldl (ckByteFn p) (checksumFn p a) := by
  simp [checksumFn, List.foldl_append]

/-- The checksum of a sequence with one more byte. -/
theorem checksumFn_concat (p : Byte) (a : Bytes) (k : Byte) :
    checksumFn p (a ++ [k]) = ckByteFn p (checksumFn p a) k := by
  simp [checksumFn_append]

/-- ROUND is linear (R107 a). -/
theorem roundFn_xor (p x y : Byte) : roundFn p (x ^^^ y) = roundFn p x ^^^ roundFn p y := by
  have lc (a b q : Byte) : a ^^^ (b ^^^ q) = b ^^^ (a ^^^ q) := by
    rw [← BitVec.xor_assoc, BitVec.xor_comm a b, BitVec.xor_assoc]
  have cancel (a q : Byte) : q ^^^ (q ^^^ a) = a := by rw [← BitVec.xor_assoc]; simp
  unfold roundFn
  rw [BitVec.getLsbD_xor, BitVec.ushiftRight_xor_distrib]
  cases x.getLsbD 0 <;> cases y.getLsbD 0 <;> simp [BitVec.xor_assoc, BitVec.xor_comm _ p, lc _ p, cancel]

/-- Any number of rounds is linear. -/
theorem rounds_xor (p : Byte) (n : Nat) (x y : Byte) : rounds p n (x ^^^ y) = rounds p n x ^^^ rounds p n y := by
  induction n generalizing x y with
  | zero => rfl
  | succ n ih => simp only [rounds, roundFn_xor, ih]

/-- ROUND keeps 0 (R101). -/
@[simp] theorem roundFn_zero (p : Byte) : roundFn p 0#8 = 0#8 := by simp [roundFn]

/-- Any number of rounds keeps 0. -/
@[simp] theorem rounds_zero (p : Byte) (n : Nat) : rounds p n 0#8 = 0#8 := by
  induction n with
  | zero => rfl
  | succ n ih => simp [rounds, ih]

/-! Validity -/

/-- VALIDATE of a sequence with a last byte (R124). -/
theorem validateFn_concat (p : Byte) (f : Bytes) (k : Byte) :
    validateFn p (f ++ [k]) = decide (checksumFn p f = k) := by
  simp [validateFn, beq_eq_decide]

/-- A sequence with its checksum appended is valid (R126). -/
@[simp] theorem validateFn_sealFrame (p : Byte) (b : Bytes) : validateFn p (sealFrame p b) = true := by
  simp [sealFrame, validateFn_concat]

@[simp] theorem sealFrame_length (p : Byte) (b : Bytes) : (sealFrame p b).length = b.length + 1 := by
  simp [sealFrame]

@[simp] theorem sealFrame_dropLast (p : Byte) (b : Bytes) : (sealFrame p b).dropLast = b := by
  simp [sealFrame]

/-- A valid sequence is its sealed beginning. -/
theorem sealFrame_of_valid {p : Byte} {f : Bytes} (h : validateFn p f = true) : f = sealFrame p f.dropLast := by
  rcases List.eq_nil_or_concat f with rfl | ⟨g, k, rfl⟩
  · simp [validateFn] at h
  · rw [List.concat_eq_append] at h ⊢
    rw [validateFn_concat] at h
    simp_all [sealFrame]

/-! Frames -/

/-- The shape of a frame, as a proposition (R70, R72). -/
theorem isFrame_iff (c : Cfg) (f : Bytes) :
    isFrame c f = true ↔
      4 ≤ f.length ∧ byteAt f 0 = c.hdr0 ∧ byteAt f 1 = c.hdr1 ∧ f.length = frameLength f + 4 := by
  simp [isFrame, and_assoc]

/-- The class of status responses, as a proposition (R80). -/
theorem isStatusResponse_iff (c : Cfg) (f : Bytes) :
    isStatusResponse c f = true ↔
      validateFn c.poly f = true ∧ 8 ≤ frameLength f ∧ frameInstruction f = c.instrStatusResp := by
  simp [isStatusResponse, and_assoc]

/-- A STATUS_RESP frame is a frame (R79). -/
theorem isFrame_statusRespFrame (c : Cfg) (a s0 s1 s2 s3 s4 s5 : Byte) {extra : Bytes} (h : extra.length ≤ 247) :
    isFrame c (statusRespFrame c a s0 s1 s2 s3 s4 s5 extra) = true := by
  rw [isFrame_iff]
  have hl : (8 + extra.length) % 256 = 8 + extra.length := by omega
  simp [statusRespFrame, statusRespBody, sealFrame, byteAt, frameLength, hl]
  omega

/-- A STATUS_RESP frame is a status response (R79, R80). -/
theorem isStatusResponse_statusRespFrame (c : Cfg) (a s0 s1 s2 s3 s4 s5 : Byte) {extra : Bytes}
    (h : extra.length ≤ 247) :
    isStatusResponse c (statusRespFrame c a s0 s1 s2 s3 s4 s5 extra) = true := by
  rw [isStatusResponse_iff]
  refine ⟨validateFn_sealFrame _ _, ?_, ?_⟩
  · have hl : (8 + extra.length) % 256 = 8 + extra.length := by omega
    simp [statusRespFrame, statusRespBody, sealFrame, byteAt, frameLength, hl]
  · simp [statusRespFrame, statusRespBody, sealFrame, byteAt, frameInstruction]

end Sys2Proof
end

