-- ==== Sys2Proof/Laws/State.lean ====
section
/-! SUPPORT. One lemma per field per update of the state, so that no proof unfolds a record update. -/

namespace Sys2Proof.Machine

open Sys2Proof

/-! `emit` -/

@[simp] theorem State.emit_cfg (s : State) (o : Output) :
    (s.emit o).cfg = s.cfg := rfl
@[simp] theorem State.emit_acc (s : State) (o : Output) :
    (s.emit o).acc = s.acc := rfl
@[simp] theorem State.emit_conn (s : State) (o : Output) :
    (s.emit o).conn = s.conn := rfl
@[simp] theorem State.emit_cabMap (s : State) (o : Output) :
    (s.emit o).cabMap = s.cabMap := rfl
@[simp] theorem State.emit_rxbuf (s : State) (o : Output) :
    (s.emit o).rxbuf = s.rxbuf := rfl
@[simp] theorem State.emit_queue (s : State) (o : Output) :
    (s.emit o).queue = s.queue := rfl
@[simp] theorem State.emit_active (s : State) (o : Output) :
    (s.emit o).active = s.active := rfl
@[simp] theorem State.emit_now (s : State) (o : Output) :
    (s.emit o).now = s.now := rfl
@[simp] theorem State.emit_nextTicket (s : State) (o : Output) :
    (s.emit o).nextTicket = s.nextTicket := rfl
@[simp] theorem State.emit_nextSendAt (s : State) (o : Output) :
    (s.emit o).nextSendAt = s.nextSendAt := rfl
@[simp] theorem State.emit_connectTicket (s : State) (o : Output) :
    (s.emit o).connectTicket = s.connectTicket := rfl
@[simp] theorem State.emit_inbox (s : State) (o : Output) :
    (s.emit o).inbox = s.inbox := rfl
@[simp] theorem State.emit_out (s : State) (o : Output) :
    (s.emit o).out = s.out ++ [o] := rfl
@[simp] theorem State.emit_ret (s : State) (o : Output) :
    (s.emit o).ret = s.ret := rfl

/-! `signal` -/

@[simp] theorem State.signal_cfg (s : State) (d : Diag) :
    (s.signal d).cfg = s.cfg := rfl
@[simp] theorem State.signal_acc (s : State) (d : Diag) :
    (s.signal d).acc = s.acc := rfl
@[simp] theorem State.signal_conn (s : State) (d : Diag) :
    (s.signal d).conn = s.conn := rfl
@[simp] theorem State.signal_cabMap (s : State) (d : Diag) :
    (s.signal d).cabMap = s.cabMap := rfl
@[simp] theorem State.signal_rxbuf (s : State) (d : Diag) :
    (s.signal d).rxbuf = s.rxbuf := rfl
@[simp] theorem State.signal_queue (s : State) (d : Diag) :
    (s.signal d).queue = s.queue := rfl
@[simp] theorem State.signal_active (s : State) (d : Diag) :
    (s.signal d).active = s.active := rfl
@[simp] theorem State.signal_now (s : State) (d : Diag) :
    (s.signal d).now = s.now := rfl
@[simp] theorem State.signal_nextTicket (s : State) (d : Diag) :
    (s.signal d).nextTicket = s.nextTicket := rfl
@[simp] theorem State.signal_nextSendAt (s : State) (d : Diag) :
    (s.signal d).nextSendAt = s.nextSendAt := rfl
@[simp] theorem State.signal_connectTicket (s : State) (d : Diag) :
    (s.signal d).connectTicket = s.connectTicket := rfl
@[simp] theorem State.signal_inbox (s : State) (d : Diag) :
    (s.signal d).inbox = s.inbox := rfl
@[simp] theorem State.signal_out (s : State) (d : Diag) :
    (s.signal d).out = s.out ++ [.diag d] := rfl
@[simp] theorem State.signal_ret (s : State) (d : Diag) :
    (s.signal d).ret = s.ret := rfl

/-! `respond` -/

@[simp] theorem State.respond_cfg (s : State) (t : Nat) (v : ResponseValue) :
    (s.respond t v).cfg = s.cfg := rfl
@[simp] theorem State.respond_acc (s : State) (t : Nat) (v : ResponseValue) :
    (s.respond t v).acc = s.acc := rfl
@[simp] theorem State.respond_conn (s : State) (t : Nat) (v : ResponseValue) :
    (s.respond t v).conn = s.conn := rfl
@[simp] theorem State.respond_cabMap (s : State) (t : Nat) (v : ResponseValue) :
    (s.respond t v).cabMap = s.cabMap := rfl
@[simp] theorem State.respond_rxbuf (s : State) (t : Nat) (v : ResponseValue) :
    (s.respond t v).rxbuf = s.rxbuf := rfl
@[simp] theorem State.respond_queue (s : State) (t : Nat) (v : ResponseValue) :
    (s.respond t v).queue = s.queue := rfl
@[simp] theorem State.respond_active (s : State) (t : Nat) (v : ResponseValue) :
    (s.respond t v).active = s.active := rfl
@[simp] theorem State.respond_now (s : State) (t : Nat) (v : ResponseValue) :
    (s.respond t v).now = s.now := rfl
@[simp] theorem State.respond_nextTicket (s : State) (t : Nat) (v : ResponseValue) :
    (s.respond t v).nextTicket = s.nextTicket := rfl
@[simp] theorem State.respond_nextSendAt (s : State) (t : Nat) (v : ResponseValue) :
    (s.respond t v).nextSendAt = s.nextSendAt := rfl
@[simp] theorem State.respond_connectTicket (s : State) (t : Nat) (v : ResponseValue) :
    (s.respond t v).connectTicket = s.connectTicket := rfl
@[simp] theorem State.respond_inbox (s : State) (t : Nat) (v : ResponseValue) :
    (s.respond t v).inbox = s.inbox := rfl
@[simp] theorem State.respond_out (s : State) (t : Nat) (v : ResponseValue) :
    (s.respond t v).out = s.out ++ [.response t v] := rfl
@[simp] theorem State.respond_ret (s : State) (t : Nat) (v : ResponseValue) :
    (s.respond t v).ret = s.ret := rfl

/-! `takeTicket` -/

@[simp] theorem State.takeTicket_cfg (s : State) :
    (s.takeTicket).cfg = s.cfg := rfl
@[simp] theorem State.takeTicket_acc (s : State) :
    (s.takeTicket).acc = s.acc := rfl
@[simp] theorem State.takeTicket_conn (s : State) :
    (s.takeTicket).conn = s.conn := rfl
@[simp] theorem State.takeTicket_cabMap (s : State) :
    (s.takeTicket).cabMap = s.cabMap := rfl
@[simp] theorem State.takeTicket_rxbuf (s : State) :
    (s.takeTicket).rxbuf = s.rxbuf := rfl
@[simp] theorem State.takeTicket_queue (s : State) :
    (s.takeTicket).queue = s.queue := rfl
@[simp] theorem State.takeTicket_active (s : State) :
    (s.takeTicket).active = s.active := rfl
@[simp] theorem State.takeTicket_now (s : State) :
    (s.takeTicket).now = s.now := rfl
@[simp] theorem State.takeTicket_nextTicket (s : State) :
    (s.takeTicket).nextTicket = s.nextTicket + 1 := rfl
@[simp] theorem State.takeTicket_nextSendAt (s : State) :
    (s.takeTicket).nextSendAt = s.nextSendAt := rfl
@[simp] theorem State.takeTicket_connectTicket (s : State) :
    (s.takeTicket).connectTicket = s.connectTicket := rfl
@[simp] theorem State.takeTicket_inbox (s : State) :
    (s.takeTicket).inbox = s.inbox := rfl
@[simp] theorem State.takeTicket_out (s : State) :
    (s.takeTicket).out = s.out := rfl
@[simp] theorem State.takeTicket_ret (s : State) :
    (s.takeTicket).ret = s.ret := rfl

/-! `setConn` -/

@[simp] theorem State.setConn_cfg (s : State) (c : ConnState) :
    (s.setConn c).cfg = s.cfg := rfl
@[simp] theorem State.setConn_acc (s : State) (c : ConnState) :
    (s.setConn c).acc = s.acc := rfl
@[simp] theorem State.setConn_conn (s : State) (c : ConnState) :
    (s.setConn c).conn = c := rfl
@[simp] theorem State.setConn_cabMap (s : State) (c : ConnState) :
    (s.setConn c).cabMap = s.cabMap := rfl
@[simp] theorem State.setConn_rxbuf (s : State) (c : ConnState) :
    (s.setConn c).rxbuf = s.rxbuf := rfl
@[simp] theorem State.setConn_queue (s : State) (c : ConnState) :
    (s.setConn c).queue = s.queue := rfl
@[simp] theorem State.setConn_active (s : State) (c : ConnState) :
    (s.setConn c).active = s.active := rfl
@[simp] theorem State.setConn_now (s : State) (c : ConnState) :
    (s.setConn c).now = s.now := rfl
@[simp] theorem State.setConn_nextTicket (s : State) (c : ConnState) :
    (s.setConn c).nextTicket = s.nextTicket := rfl
@[simp] theorem State.setConn_nextSendAt (s : State) (c : ConnState) :
    (s.setConn c).nextSendAt = s.nextSendAt := rfl
@[simp] theorem State.setConn_connectTicket (s : State) (c : ConnState) :
    (s.setConn c).connectTicket = s.connectTicket := rfl
@[simp] theorem State.setConn_inbox (s : State) (c : ConnState) :
    (s.setConn c).inbox = s.inbox := rfl
@[simp] theorem State.setConn_out (s : State) (c : ConnState) :
    (s.setConn c).out = s.out := rfl
@[simp] theorem State.setConn_ret (s : State) (c : ConnState) :
    (s.setConn c).ret = s.ret := rfl

/-! `setConnectTicket` -/

@[simp] theorem State.setConnectTicket_cfg (s : State) (t : Option Nat) :
    (s.setConnectTicket t).cfg = s.cfg := rfl
@[simp] theorem State.setConnectTicket_acc (s : State) (t : Option Nat) :
    (s.setConnectTicket t).acc = s.acc := rfl
@[simp] theorem State.setConnectTicket_conn (s : State) (t : Option Nat) :
    (s.setConnectTicket t).conn = s.conn := rfl
@[simp] theorem State.setConnectTicket_cabMap (s : State) (t : Option Nat) :
    (s.setConnectTicket t).cabMap = s.cabMap := rfl
@[simp] theorem State.setConnectTicket_rxbuf (s : State) (t : Option Nat) :
    (s.setConnectTicket t).rxbuf = s.rxbuf := rfl
@[simp] theorem State.setConnectTicket_queue (s : State) (t : Option Nat) :
    (s.setConnectTicket t).queue = s.queue := rfl
@[simp] theorem State.setConnectTicket_active (s : State) (t : Option Nat) :
    (s.setConnectTicket t).active = s.active := rfl
@[simp] theorem State.setConnectTicket_now (s : State) (t : Option Nat) :
    (s.setConnectTicket t).now = s.now := rfl
@[simp] theorem State.setConnectTicket_nextTicket (s : State) (t : Option Nat) :
    (s.setConnectTicket t).nextTicket = s.nextTicket := rfl
@[simp] theorem State.setConnectTicket_nextSendAt (s : State) (t : Option Nat) :
    (s.setConnectTicket t).nextSendAt = s.nextSendAt := rfl
@[simp] theorem State.setConnectTicket_connectTicket (s : State) (t : Option Nat) :
    (s.setConnectTicket t).connectTicket = t := rfl
@[simp] theorem State.setConnectTicket_inbox (s : State) (t : Option Nat) :
    (s.setConnectTicket t).inbox = s.inbox := rfl
@[simp] theorem State.setConnectTicket_out (s : State) (t : Option Nat) :
    (s.setConnectTicket t).out = s.out := rfl
@[simp] theorem State.setConnectTicket_ret (s : State) (t : Option Nat) :
    (s.setConnectTicket t).ret = s.ret := rfl

/-! `bufAppend` -/

@[simp] theorem State.bufAppend_cfg (s : State) (bs : Bytes) :
    (s.bufAppend bs).cfg = s.cfg := rfl
@[simp] theorem State.bufAppend_acc (s : State) (bs : Bytes) :
    (s.bufAppend bs).acc = s.acc := rfl
@[simp] theorem State.bufAppend_conn (s : State) (bs : Bytes) :
    (s.bufAppend bs).conn = s.conn := rfl
@[simp] theorem State.bufAppend_cabMap (s : State) (bs : Bytes) :
    (s.bufAppend bs).cabMap = s.cabMap := rfl
@[simp] theorem State.bufAppend_rxbuf (s : State) (bs : Bytes) :
    (s.bufAppend bs).rxbuf = s.rxbuf ++ bs := rfl
@[simp] theorem State.bufAppend_queue (s : State) (bs : Bytes) :
    (s.bufAppend bs).queue = s.queue := rfl
@[simp] theorem State.bufAppend_active (s : State) (bs : Bytes) :
    (s.bufAppend bs).active = s.active := rfl
@[simp] theorem State.bufAppend_now (s : State) (bs : Bytes) :
    (s.bufAppend bs).now = s.now := rfl
@[simp] theorem State.bufAppend_nextTicket (s : State) (bs : Bytes) :
    (s.bufAppend bs).nextTicket = s.nextTicket := rfl
@[simp] theorem State.bufAppend_nextSendAt (s : State) (bs : Bytes) :
    (s.bufAppend bs).nextSendAt = s.nextSendAt := rfl
@[simp] theorem State.bufAppend_connectTicket (s : State) (bs : Bytes) :
    (s.bufAppend bs).connectTicket = s.connectTicket := rfl
@[simp] theorem State.bufAppend_inbox (s : State) (bs : Bytes) :
    (s.bufAppend bs).inbox = s.inbox := rfl
@[simp] theorem State.bufAppend_out (s : State) (bs : Bytes) :
    (s.bufAppend bs).out = s.out := rfl
@[simp] theorem State.bufAppend_ret (s : State) (bs : Bytes) :
    (s.bufAppend bs).ret = s.ret := rfl

/-! `bufDrop` -/

@[simp] theorem State.bufDrop_cfg (s : State) (n : Nat) :
    (s.bufDrop n).cfg = s.cfg := rfl
@[simp] theorem State.bufDrop_acc (s : State) (n : Nat) :
    (s.bufDrop n).acc = s.acc := rfl
@[simp] theorem State.bufDrop_conn (s : State) (n : Nat) :
    (s.bufDrop n).conn = s.conn := rfl
@[simp] theorem State.bufDrop_cabMap (s : State) (n : Nat) :
    (s.bufDrop n).cabMap = s.cabMap := rfl
@[simp] theorem State.bufDrop_rxbuf (s : State) (n : Nat) :
    (s.bufDrop n).rxbuf = s.rxbuf.drop n := rfl
@[simp] theorem State.bufDrop_queue (s : State) (n : Nat) :
    (s.bufDrop n).queue = s.queue := rfl
@[simp] theorem State.bufDrop_active (s : State) (n : Nat) :
    (s.bufDrop n).active = s.active := rfl
@[simp] theorem State.bufDrop_now (s : State) (n : Nat) :
    (s.bufDrop n).now = s.now := rfl
@[simp] theorem State.bufDrop_nextTicket (s : State) (n : Nat) :
    (s.bufDrop n).nextTicket = s.nextTicket := rfl
@[simp] theorem State.bufDrop_nextSendAt (s : State) (n : Nat) :
    (s.bufDrop n).nextSendAt = s.nextSendAt := rfl
@[simp] theorem State.bufDrop_connectTicket (s : State) (n : Nat) :
    (s.bufDrop n).connectTicket = s.connectTicket := rfl
@[simp] theorem State.bufDrop_inbox (s : State) (n : Nat) :
    (s.bufDrop n).inbox = s.inbox := rfl
@[simp] theorem State.bufDrop_out (s : State) (n : Nat) :
    (s.bufDrop n).out = s.out := rfl
@[simp] theorem State.bufDrop_ret (s : State) (n : Nat) :
    (s.bufDrop n).ret = s.ret := rfl

/-! `bufClear` -/

@[simp] theorem State.bufClear_cfg (s : State) :
    (s.bufClear).cfg = s.cfg := rfl
@[simp] theorem State.bufClear_acc (s : State) :
    (s.bufClear).acc = s.acc := rfl
@[simp] theorem State.bufClear_conn (s : State) :
    (s.bufClear).conn = s.conn := rfl
@[simp] theorem State.bufClear_cabMap (s : State) :
    (s.bufClear).cabMap = s.cabMap := rfl
@[simp] theorem State.bufClear_rxbuf (s : State) :
    (s.bufClear).rxbuf = [] := rfl
@[simp] theorem State.bufClear_queue (s : State) :
    (s.bufClear).queue = s.queue := rfl
@[simp] theorem State.bufClear_active (s : State) :
    (s.bufClear).active = s.active := rfl
@[simp] theorem State.bufClear_now (s : State) :
    (s.bufClear).now = s.now := rfl
@[simp] theorem State.bufClear_nextTicket (s : State) :
    (s.bufClear).nextTicket = s.nextTicket := rfl
@[simp] theorem State.bufClear_nextSendAt (s : State) :
    (s.bufClear).nextSendAt = s.nextSendAt := rfl
@[simp] theorem State.bufClear_connectTicket (s : State) :
    (s.bufClear).connectTicket = s.connectTicket := rfl
@[simp] theorem State.bufClear_inbox (s : State) :
    (s.bufClear).inbox = s.inbox := rfl
@[simp] theorem State.bufClear_out (s : State) :
    (s.bufClear).out = s.out := rfl
@[simp] theorem State.bufClear_ret (s : State) :
    (s.bufClear).ret = s.ret := rfl

/-! `mapMark` -/

@[simp] theorem State.mapMark_cfg (s : State) (id : Byte) (st : CabState) :
    (s.mapMark id st).cfg = s.cfg := rfl
@[simp] theorem State.mapMark_acc (s : State) (id : Byte) (st : CabState) :
    (s.mapMark id st).acc = s.acc := rfl
@[simp] theorem State.mapMark_conn (s : State) (id : Byte) (st : CabState) :
    (s.mapMark id st).conn = s.conn := rfl
@[simp] theorem State.mapMark_cabMap (s : State) (id : Byte) (st : CabState) :
    (s.mapMark id st).cabMap = s.cabMap.put id.toNat { id := id, state := st, lastUpdatedAt := s.now } := rfl
@[simp] theorem State.mapMark_rxbuf (s : State) (id : Byte) (st : CabState) :
    (s.mapMark id st).rxbuf = s.rxbuf := rfl
@[simp] theorem State.mapMark_queue (s : State) (id : Byte) (st : CabState) :
    (s.mapMark id st).queue = s.queue := rfl
@[simp] theorem State.mapMark_active (s : State) (id : Byte) (st : CabState) :
    (s.mapMark id st).active = s.active := rfl
@[simp] theorem State.mapMark_now (s : State) (id : Byte) (st : CabState) :
    (s.mapMark id st).now = s.now := rfl
@[simp] theorem State.mapMark_nextTicket (s : State) (id : Byte) (st : CabState) :
    (s.mapMark id st).nextTicket = s.nextTicket := rfl
@[simp] theorem State.mapMark_nextSendAt (s : State) (id : Byte) (st : CabState) :
    (s.mapMark id st).nextSendAt = s.nextSendAt := rfl
@[simp] theorem State.mapMark_connectTicket (s : State) (id : Byte) (st : CabState) :
    (s.mapMark id st).connectTicket = s.connectTicket := rfl
@[simp] theorem State.mapMark_inbox (s : State) (id : Byte) (st : CabState) :
    (s.mapMark id st).inbox = s.inbox := rfl
@[simp] theorem State.mapMark_out (s : State) (id : Byte) (st : CabState) :
    (s.mapMark id st).out = s.out := rfl
@[simp] theorem State.mapMark_ret (s : State) (id : Byte) (st : CabState) :
    (s.mapMark id st).ret = s.ret := rfl

/-! `mapClear` -/

@[simp] theorem State.mapClear_cfg (s : State) :
    (s.mapClear).cfg = s.cfg := rfl
@[simp] theorem State.mapClear_acc (s : State) :
    (s.mapClear).acc = s.acc := rfl
@[simp] theorem State.mapClear_conn (s : State) :
    (s.mapClear).conn = s.conn := rfl
@[simp] theorem State.mapClear_cabMap (s : State) :
    (s.mapClear).cabMap = [] := rfl
@[simp] theorem State.mapClear_rxbuf (s : State) :
    (s.mapClear).rxbuf = s.rxbuf := rfl
@[simp] theorem State.mapClear_queue (s : State) :
    (s.mapClear).queue = s.queue := rfl
@[simp] theorem State.mapClear_active (s : State) :
    (s.mapClear).active = s.active := rfl
@[simp] theorem State.mapClear_now (s : State) :
    (s.mapClear).now = s.now := rfl
@[simp] theorem State.mapClear_nextTicket (s : State) :
    (s.mapClear).nextTicket = s.nextTicket := rfl
@[simp] theorem State.mapClear_nextSendAt (s : State) :
    (s.mapClear).nextSendAt = s.nextSendAt := rfl
@[simp] theorem State.mapClear_connectTicket (s : State) :
    (s.mapClear).connectTicket = s.connectTicket := rfl
@[simp] theorem State.mapClear_inbox (s : State) :
    (s.mapClear).inbox = s.inbox := rfl
@[simp] theorem State.mapClear_out (s : State) :
    (s.mapClear).out = s.out := rfl
@[simp] theorem State.mapClear_ret (s : State) :
    (s.mapClear).ret = s.ret := rfl

/-! `settle` -/

@[simp] theorem State.settle_cfg (s : State) :
    (s.settle).cfg = s.cfg := rfl
@[simp] theorem State.settle_acc (s : State) :
    (s.settle).acc = s.acc := rfl
@[simp] theorem State.settle_conn (s : State) :
    (s.settle).conn = s.conn := rfl
@[simp] theorem State.settle_cabMap (s : State) :
    (s.settle).cabMap = s.cabMap := rfl
@[simp] theorem State.settle_rxbuf (s : State) :
    (s.settle).rxbuf = s.rxbuf := rfl
@[simp] theorem State.settle_queue (s : State) :
    (s.settle).queue = s.queue := rfl
@[simp] theorem State.settle_active (s : State) :
    (s.settle).active = s.active := rfl
@[simp] theorem State.settle_now (s : State) :
    (s.settle).now = s.now := rfl
@[simp] theorem State.settle_nextTicket (s : State) :
    (s.settle).nextTicket = s.nextTicket := rfl
@[simp] theorem State.settle_nextSendAt (s : State) :
    (s.settle).nextSendAt = s.now + s.cfg.settleTime := rfl
@[simp] theorem State.settle_connectTicket (s : State) :
    (s.settle).connectTicket = s.connectTicket := rfl
@[simp] theorem State.settle_inbox (s : State) :
    (s.settle).inbox = s.inbox := rfl
@[simp] theorem State.settle_out (s : State) :
    (s.settle).out = s.out := rfl
@[simp] theorem State.settle_ret (s : State) :
    (s.settle).ret = s.ret := rfl

/-! `setActive` -/

@[simp] theorem State.setActive_cfg (s : State) (j : Option Job) :
    (s.setActive j).cfg = s.cfg := rfl
@[simp] theorem State.setActive_acc (s : State) (j : Option Job) :
    (s.setActive j).acc = s.acc := rfl
@[simp] theorem State.setActive_conn (s : State) (j : Option Job) :
    (s.setActive j).conn = s.conn := rfl
@[simp] theorem State.setActive_cabMap (s : State) (j : Option Job) :
    (s.setActive j).cabMap = s.cabMap := rfl
@[simp] theorem State.setActive_rxbuf (s : State) (j : Option Job) :
    (s.setActive j).rxbuf = s.rxbuf := rfl
@[simp] theorem State.setActive_queue (s : State) (j : Option Job) :
    (s.setActive j).queue = s.queue := rfl
@[simp] theorem State.setActive_active (s : State) (j : Option Job) :
    (s.setActive j).active = j := rfl
@[simp] theorem State.setActive_now (s : State) (j : Option Job) :
    (s.setActive j).now = s.now := rfl
@[simp] theorem State.setActive_nextTicket (s : State) (j : Option Job) :
    (s.setActive j).nextTicket = s.nextTicket := rfl
@[simp] theorem State.setActive_nextSendAt (s : State) (j : Option Job) :
    (s.setActive j).nextSendAt = s.nextSendAt := rfl
@[simp] theorem State.setActive_connectTicket (s : State) (j : Option Job) :
    (s.setActive j).connectTicket = s.connectTicket := rfl
@[simp] theorem State.setActive_inbox (s : State) (j : Option Job) :
    (s.setActive j).inbox = s.inbox := rfl
@[simp] theorem State.setActive_out (s : State) (j : Option Job) :
    (s.setActive j).out = s.out := rfl
@[simp] theorem State.setActive_ret (s : State) (j : Option Job) :
    (s.setActive j).ret = s.ret := rfl

/-! `enqueue` -/

@[simp] theorem State.enqueue_cfg (s : State) (j : Job) :
    (s.enqueue j).cfg = s.cfg := rfl
@[simp] theorem State.enqueue_acc (s : State) (j : Job) :
    (s.enqueue j).acc = s.acc := rfl
@[simp] theorem State.enqueue_conn (s : State) (j : Job) :
    (s.enqueue j).conn = s.conn := rfl
@[simp] theorem State.enqueue_cabMap (s : State) (j : Job) :
    (s.enqueue j).cabMap = s.cabMap := rfl
@[simp] theorem State.enqueue_rxbuf (s : State) (j : Job) :
    (s.enqueue j).rxbuf = s.rxbuf := rfl
@[simp] theorem State.enqueue_queue (s : State) (j : Job) :
    (s.enqueue j).queue = s.queue ++ [j] := rfl
@[simp] theorem State.enqueue_active (s : State) (j : Job) :
    (s.enqueue j).active = s.active := rfl
@[simp] theorem State.enqueue_now (s : State) (j : Job) :
    (s.enqueue j).now = s.now := rfl
@[simp] theorem State.enqueue_nextTicket (s : State) (j : Job) :
    (s.enqueue j).nextTicket = s.nextTicket := rfl
@[simp] theorem State.enqueue_nextSendAt (s : State) (j : Job) :
    (s.enqueue j).nextSendAt = s.nextSendAt := rfl
@[simp] theorem State.enqueue_connectTicket (s : State) (j : Job) :
    (s.enqueue j).connectTicket = s.connectTicket := rfl
@[simp] theorem State.enqueue_inbox (s : State) (j : Job) :
    (s.enqueue j).inbox = s.inbox := rfl
@[simp] theorem State.enqueue_out (s : State) (j : Job) :
    (s.enqueue j).out = s.out := rfl
@[simp] theorem State.enqueue_ret (s : State) (j : Job) :
    (s.enqueue j).ret = s.ret := rfl

/-! `setAcc` -/

@[simp] theorem State.setAcc_cfg (s : State) (a : Byte) :
    (s.setAcc a).cfg = s.cfg := rfl
@[simp] theorem State.setAcc_acc (s : State) (a : Byte) :
    (s.setAcc a).acc = a := rfl
@[simp] theorem State.setAcc_conn (s : State) (a : Byte) :
    (s.setAcc a).conn = s.conn := rfl
@[simp] theorem State.setAcc_cabMap (s : State) (a : Byte) :
    (s.setAcc a).cabMap = s.cabMap := rfl
@[simp] theorem State.setAcc_rxbuf (s : State) (a : Byte) :
    (s.setAcc a).rxbuf = s.rxbuf := rfl
@[simp] theorem State.setAcc_queue (s : State) (a : Byte) :
    (s.setAcc a).queue = s.queue := rfl
@[simp] theorem State.setAcc_active (s : State) (a : Byte) :
    (s.setAcc a).active = s.active := rfl
@[simp] theorem State.setAcc_now (s : State) (a : Byte) :
    (s.setAcc a).now = s.now := rfl
@[simp] theorem State.setAcc_nextTicket (s : State) (a : Byte) :
    (s.setAcc a).nextTicket = s.nextTicket := rfl
@[simp] theorem State.setAcc_nextSendAt (s : State) (a : Byte) :
    (s.setAcc a).nextSendAt = s.nextSendAt := rfl
@[simp] theorem State.setAcc_connectTicket (s : State) (a : Byte) :
    (s.setAcc a).connectTicket = s.connectTicket := rfl
@[simp] theorem State.setAcc_inbox (s : State) (a : Byte) :
    (s.setAcc a).inbox = s.inbox := rfl
@[simp] theorem State.setAcc_out (s : State) (a : Byte) :
    (s.setAcc a).out = s.out := rfl
@[simp] theorem State.setAcc_ret (s : State) (a : Byte) :
    (s.setAcc a).ret = s.ret := rfl

/-! `setRet` -/

@[simp] theorem State.setRet_cfg (s : State) (r : Returned) :
    (s.setRet r).cfg = s.cfg := rfl
@[simp] theorem State.setRet_acc (s : State) (r : Returned) :
    (s.setRet r).acc = s.acc := rfl
@[simp] theorem State.setRet_conn (s : State) (r : Returned) :
    (s.setRet r).conn = s.conn := rfl
@[simp] theorem State.setRet_cabMap (s : State) (r : Returned) :
    (s.setRet r).cabMap = s.cabMap := rfl
@[simp] theorem State.setRet_rxbuf (s : State) (r : Returned) :
    (s.setRet r).rxbuf = s.rxbuf := rfl
@[simp] theorem State.setRet_queue (s : State) (r : Returned) :
    (s.setRet r).queue = s.queue := rfl
@[simp] theorem State.setRet_active (s : State) (r : Returned) :
    (s.setRet r).active = s.active := rfl
@[simp] theorem State.setRet_now (s : State) (r : Returned) :
    (s.setRet r).now = s.now := rfl
@[simp] theorem State.setRet_nextTicket (s : State) (r : Returned) :
    (s.setRet r).nextTicket = s.nextTicket := rfl
@[simp] theorem State.setRet_nextSendAt (s : State) (r : Returned) :
    (s.setRet r).nextSendAt = s.nextSendAt := rfl
@[simp] theorem State.setRet_connectTicket (s : State) (r : Returned) :
    (s.setRet r).connectTicket = s.connectTicket := rfl
@[simp] theorem State.setRet_inbox (s : State) (r : Returned) :
    (s.setRet r).inbox = s.inbox := rfl
@[simp] theorem State.setRet_out (s : State) (r : Returned) :
    (s.setRet r).out = s.out := rfl
@[simp] theorem State.setRet_ret (s : State) (r : Returned) :
    (s.setRet r).ret = r := rfl

/-! `runChecksum` -/

@[simp] theorem State.runChecksum_cfg (s : State) (bs : Bytes) :
    (s.runChecksum bs).cfg = s.cfg := rfl
@[simp] theorem State.runChecksum_acc (s : State) (bs : Bytes) :
    (s.runChecksum bs).acc = checksumFn s.cfg.poly bs := rfl
@[simp] theorem State.runChecksum_conn (s : State) (bs : Bytes) :
    (s.runChecksum bs).conn = s.conn := rfl
@[simp] theorem State.runChecksum_cabMap (s : State) (bs : Bytes) :
    (s.runChecksum bs).cabMap = s.cabMap := rfl
@[simp] theorem State.runChecksum_rxbuf (s : State) (bs : Bytes) :
    (s.runChecksum bs).rxbuf = s.rxbuf := rfl
@[simp] theorem State.runChecksum_queue (s : State) (bs : Bytes) :
    (s.runChecksum bs).queue = s.queue := rfl
@[simp] theorem State.runChecksum_active (s : State) (bs : Bytes) :
    (s.runChecksum bs).active = s.active := rfl
@[simp] theorem State.runChecksum_now (s : State) (bs : Bytes) :
    (s.runChecksum bs).now = s.now := rfl
@[simp] theorem State.runChecksum_nextTicket (s : State) (bs : Bytes) :
    (s.runChecksum bs).nextTicket = s.nextTicket := rfl
@[simp] theorem State.runChecksum_nextSendAt (s : State) (bs : Bytes) :
    (s.runChecksum bs).nextSendAt = s.nextSendAt := rfl
@[simp] theorem State.runChecksum_connectTicket (s : State) (bs : Bytes) :
    (s.runChecksum bs).connectTicket = s.connectTicket := rfl
@[simp] theorem State.runChecksum_inbox (s : State) (bs : Bytes) :
    (s.runChecksum bs).inbox = s.inbox := rfl
@[simp] theorem State.runChecksum_out (s : State) (bs : Bytes) :
    (s.runChecksum bs).out = s.out := rfl
@[simp] theorem State.runChecksum_ret (s : State) (bs : Bytes) :
    (s.runChecksum bs).ret = s.ret := rfl

/-! `answerConnect` -/

@[simp] theorem State.answerConnect_cfg (s : State) (v : ResponseValue) :
    (s.answerConnect v).cfg = s.cfg := by unfold State.answerConnect; split <;> rfl
@[simp] theorem State.answerConnect_acc (s : State) (v : ResponseValue) :
    (s.answerConnect v).acc = s.acc := by unfold State.answerConnect; split <;> rfl
@[simp] theorem State.answerConnect_conn (s : State) (v : ResponseValue) :
    (s.answerConnect v).conn = s.conn := by unfold State.answerConnect; split <;> rfl
@[simp] theorem State.answerConnect_cabMap (s : State) (v : ResponseValue) :
    (s.answerConnect v).cabMap = s.cabMap := by unfold State.answerConnect; split <;> rfl
@[simp] theorem State.answerConnect_rxbuf (s : State) (v : ResponseValue) :
    (s.answerConnect v).rxbuf = s.rxbuf := by unfold State.answerConnect; split <;> rfl
@[simp] theorem State.answerConnect_queue (s : State) (v : ResponseValue) :
    (s.answerConnect v).queue = s.queue := by unfold State.answerConnect; split <;> rfl
@[simp] theorem State.answerConnect_active (s : State) (v : ResponseValue) :
    (s.answerConnect v).active = s.active := by unfold State.answerConnect; split <;> rfl
@[simp] theorem State.answerConnect_now (s : State) (v : ResponseValue) :
    (s.answerConnect v).now = s.now := by unfold State.answerConnect; split <;> rfl
@[simp] theorem State.answerConnect_nextTicket (s : State) (v : ResponseValue) :
    (s.answerConnect v).nextTicket = s.nextTicket := by unfold State.answerConnect; split <;> rfl
@[simp] theorem State.answerConnect_nextSendAt (s : State) (v : ResponseValue) :
    (s.answerConnect v).nextSendAt = s.nextSendAt := by unfold State.answerConnect; split <;> rfl
@[simp] theorem State.answerConnect_inbox (s : State) (v : ResponseValue) :
    (s.answerConnect v).inbox = s.inbox := by unfold State.answerConnect; split <;> rfl
@[simp] theorem State.answerConnect_ret (s : State) (v : ResponseValue) :
    (s.answerConnect v).ret = s.ret := by unfold State.answerConnect; split <;> rfl

/-! `advanceTime` -/

@[simp] theorem State.advanceTime_cfg (s : State) (t : Nat) :
    (s.advanceTime t).cfg = s.cfg := by unfold State.advanceTime; split <;> rfl
@[simp] theorem State.advanceTime_acc (s : State) (t : Nat) :
    (s.advanceTime t).acc = s.acc := by unfold State.advanceTime; split <;> rfl
@[simp] theorem State.advanceTime_conn (s : State) (t : Nat) :
    (s.advanceTime t).conn = s.conn := by unfold State.advanceTime; split <;> rfl
@[simp] theorem State.advanceTime_cabMap (s : State) (t : Nat) :
    (s.advanceTime t).cabMap = s.cabMap := by unfold State.advanceTime; split <;> rfl
@[simp] theorem State.advanceTime_rxbuf (s : State) (t : Nat) :
    (s.advanceTime t).rxbuf = s.rxbuf := by unfold State.advanceTime; split <;> rfl
@[simp] theorem State.advanceTime_queue (s : State) (t : Nat) :
    (s.advanceTime t).queue = s.queue := by unfold State.advanceTime; split <;> rfl
@[simp] theorem State.advanceTime_active (s : State) (t : Nat) :
    (s.advanceTime t).active = s.active := by unfold State.advanceTime; split <;> rfl
@[simp] theorem State.advanceTime_nextTicket (s : State) (t : Nat) :
    (s.advanceTime t).nextTicket = s.nextTicket := by unfold State.advanceTime; split <;> rfl
@[simp] theorem State.advanceTime_nextSendAt (s : State) (t : Nat) :
    (s.advanceTime t).nextSendAt = s.nextSendAt := by unfold State.advanceTime; split <;> rfl
@[simp] theorem State.advanceTime_connectTicket (s : State) (t : Nat) :
    (s.advanceTime t).connectTicket = s.connectTicket := by unfold State.advanceTime; split <;> rfl
@[simp] theorem State.advanceTime_inbox (s : State) (t : Nat) :
    (s.advanceTime t).inbox = s.inbox := by unfold State.advanceTime; split <;> rfl
@[simp] theorem State.advanceTime_out (s : State) (t : Nat) :
    (s.advanceTime t).out = s.out := by unfold State.advanceTime; split <;> rfl
@[simp] theorem State.advanceTime_ret (s : State) (t : Nat) :
    (s.advanceTime t).ret = s.ret := by unfold State.advanceTime; split <;> rfl

/-! `runValidate` -/

@[simp] theorem State.runValidate_cfg (s : State) (f : Bytes) :
    (s.runValidate f).cfg = s.cfg := by unfold State.runValidate; split <;> rfl
@[simp] theorem State.runValidate_conn (s : State) (f : Bytes) :
    (s.runValidate f).conn = s.conn := by unfold State.runValidate; split <;> rfl
@[simp] theorem State.runValidate_cabMap (s : State) (f : Bytes) :
    (s.runValidate f).cabMap = s.cabMap := by unfold State.runValidate; split <;> rfl
@[simp] theorem State.runValidate_rxbuf (s : State) (f : Bytes) :
    (s.runValidate f).rxbuf = s.rxbuf := by unfold State.runValidate; split <;> rfl
@[simp] theorem State.runValidate_queue (s : State) (f : Bytes) :
    (s.runValidate f).queue = s.queue := by unfold State.runValidate; split <;> rfl
@[simp] theorem State.runValidate_active (s : State) (f : Bytes) :
    (s.runValidate f).active = s.active := by unfold State.runValidate; split <;> rfl
@[simp] theorem State.runValidate_now (s : State) (f : Bytes) :
    (s.runValidate f).now = s.now := by unfold State.runValidate; split <;> rfl
@[simp] theorem State.runValidate_nextTicket (s : State) (f : Bytes) :
    (s.runValidate f).nextTicket = s.nextTicket := by unfold State.runValidate; split <;> rfl
@[simp] theorem State.runValidate_nextSendAt (s : State) (f : Bytes) :
    (s.runValidate f).nextSendAt = s.nextSendAt := by unfold State.runValidate; split <;> rfl
@[simp] theorem State.runValidate_connectTicket (s : State) (f : Bytes) :
    (s.runValidate f).connectTicket = s.connectTicket := by unfold State.runValidate; split <;> rfl
@[simp] theorem State.runValidate_inbox (s : State) (f : Bytes) :
    (s.runValidate f).inbox = s.inbox := by unfold State.runValidate; split <;> rfl
@[simp] theorem State.runValidate_out (s : State) (f : Bytes) :
    (s.runValidate f).out = s.out := by unfold State.runValidate; split <;> rfl
@[simp] theorem State.runValidate_ret (s : State) (f : Bytes) :
    (s.runValidate f).ret = s.ret := by unfold State.runValidate; split <;> rfl

/-! `writeFrame` -/

@[simp] theorem State.writeFrame_cfg (s : State) (p : Bytes) (i : Byte) :
    (s.writeFrame p i).cfg = s.cfg := by unfold State.writeFrame; split <;> rfl
@[simp] theorem State.writeFrame_conn (s : State) (p : Bytes) (i : Byte) :
    (s.writeFrame p i).conn = s.conn := by unfold State.writeFrame; split <;> rfl
@[simp] theorem State.writeFrame_cabMap (s : State) (p : Bytes) (i : Byte) :
    (s.writeFrame p i).cabMap = s.cabMap := by unfold State.writeFrame; split <;> rfl
@[simp] theorem State.writeFrame_rxbuf (s : State) (p : Bytes) (i : Byte) :
    (s.writeFrame p i).rxbuf = s.rxbuf := by unfold State.writeFrame; split <;> rfl
@[simp] theorem State.writeFrame_queue (s : State) (p : Bytes) (i : Byte) :
    (s.writeFrame p i).queue = s.queue := by unfold State.writeFrame; split <;> rfl
@[simp] theorem State.writeFrame_active (s : State) (p : Bytes) (i : Byte) :
    (s.writeFrame p i).active = s.active := by unfold State.writeFrame; split <;> rfl
@[simp] theorem State.writeFrame_now (s : State) (p : Bytes) (i : Byte) :
    (s.writeFrame p i).now = s.now := by unfold State.writeFrame; split <;> rfl
@[simp] theorem State.writeFrame_nextTicket (s : State) (p : Bytes) (i : Byte) :
    (s.writeFrame p i).nextTicket = s.nextTicket := by unfold State.writeFrame; split <;> rfl
@[simp] theorem State.writeFrame_nextSendAt (s : State) (p : Bytes) (i : Byte) :
    (s.writeFrame p i).nextSendAt = s.nextSendAt := by unfold State.writeFrame; split <;> rfl
@[simp] theorem State.writeFrame_connectTicket (s : State) (p : Bytes) (i : Byte) :
    (s.writeFrame p i).connectTicket = s.connectTicket := by unfold State.writeFrame; split <;> rfl
@[simp] theorem State.writeFrame_inbox (s : State) (p : Bytes) (i : Byte) :
    (s.writeFrame p i).inbox = s.inbox := by unfold State.writeFrame; split <;> rfl
@[simp] theorem State.writeFrame_ret (s : State) (p : Bytes) (i : Byte) :
    (s.writeFrame p i).ret = s.ret := by unfold State.writeFrame; split <;> rfl

/-- R183: NOW never decreases. -/
@[simp] theorem State.advanceTime_now (s : State) (t : Nat) : (s.advanceTime t).now = max s.now t := by
  unfold State.advanceTime
  split
  · simp; omega
  · omega

/-- A pending connect call is answered and no longer pending. -/
theorem State.answerConnect_of_pending {s : State} {t : Nat} (h : s.connectTicket = some t) (v : ResponseValue) :
    s.answerConnect v = { s with connectTicket := none, out := s.out ++ [.response t v] } := by
  simp [State.answerConnect, h, State.respond, State.emit, State.setConnectTicket]

/-- A call that is not pending is not answered. -/
theorem State.answerConnect_of_none {s : State} (h : s.connectTicket = none) (v : ResponseValue) :
    s.answerConnect v = s := by
  simp [State.answerConnect, h]

/-- VALIDATE leaves the checksum of all bytes but the last in ACC. -/
theorem State.runValidate_of_ne_nil (s : State) {f : Bytes} (h : f ≠ []) :
    s.runValidate f = { s with acc := checksumFn s.cfg.poly f.dropLast } := by
  simp [State.runValidate, h, State.runChecksum, State.setAcc]

/-- The write of a frame that can be built. -/
theorem State.writeFrame_of_short (s : State) {p : Bytes} (i : Byte) (h : p.length ≤ 253) :
    s.writeFrame p i = { s with
      acc := checksumFn s.cfg.poly (frameBody s.cfg p s.cfg.address i)
      out := s.out ++ [.txFrame (sealFrame s.cfg.poly (frameBody s.cfg p s.cfg.address i))] } := by
  have h' : ¬ 253 < p.length := by omega
  simp [State.writeFrame, buildFn, h', State.runChecksum, State.setAcc, State.emit]

end Sys2Proof.Machine
end

