-- ==== Sys2Proof/Laws/Memory.lean ====
section
/-! SUPPORT. The laws of the cabinet status map (R26, R52): a read after a write, and that every map operation keeps the
canonical form and the entries' own IDs (I6 of R44). -/

namespace Sys2Proof.Machine

open Sys2Proof

/-- Read after write: the written ID gives the new entry, every other ID the old one. -/
theorem CabinetMap.get_put (m : CabinetMap) (i k : Nat) (v : CabinetStatus) :
    (m.put i v).get k = if k = i then some v else m.get k := by
  induction m with
  | nil => simp [CabinetMap.put, CabinetMap.get, eq_comm]
  | cons e m ih =>
    obtain ⟨key, st⟩ := e
    unfold CabinetMap.put
    by_cases h1 : i < key
    · simp only [h1, if_true, CabinetMap.get, eq_comm (a := i)]
    · by_cases h2 : i = key
      · subst h2
        by_cases h3 : k = i
        · subst h3; simp [CabinetMap.get]
        · simp [CabinetMap.get, h3, Ne.symm h3]
      · simp only [h1, h2, if_false, CabinetMap.get, ih]
        by_cases h3 : key = k
        · subst h3; simp [Ne.symm h2]
        · simp [h3]

/-- A written map holds the new entry and entries it held before. -/
theorem CabinetMap.mem_put {m : CabinetMap} {i : Nat} {v : CabinetStatus} {e : Nat × CabinetStatus}
    (h : e ∈ m.put i v) : e = (i, v) ∨ e ∈ m := by
  induction m with
  | nil => simpa [CabinetMap.put] using h
  | cons a m ih =>
    unfold CabinetMap.put at h
    split at h
    · simpa using h
    · split at h
      · rcases List.mem_cons.1 h with h | h
        · exact .inl h
        · exact .inr (List.mem_cons_of_mem _ h)
      · rcases List.mem_cons.1 h with h | h
        · exact .inr (h ▸ List.mem_cons_self)
        · exact (ih h).imp id (List.mem_cons_of_mem _)

/-- The keys of a written map stay strictly rising. -/
theorem CabinetMap.pairwise_put {m : CabinetMap} {i : Nat} {v : CabinetStatus}
    (h : m.Pairwise fun a b => a.1 < b.1) : (m.put i v).Pairwise fun a b => a.1 < b.1 := by
  induction m with
  | nil => simp [CabinetMap.put]
  | cons a m ih =>
    have hm := List.pairwise_cons.1 h
    unfold CabinetMap.put
    split
    next hlt =>
      refine List.pairwise_cons.2 ⟨fun b hb => ?_, h⟩
      rcases List.mem_cons.1 hb with rfl | hb
      · exact hlt
      · exact Nat.lt_trans hlt (hm.1 b hb)
    next hge =>
      split
      next heq => exact List.pairwise_cons.2 ⟨fun b hb => heq ▸ hm.1 b hb, hm.2⟩
      next hne =>
        refine List.pairwise_cons.2 ⟨fun b hb => ?_, ih hm.2⟩
        rcases CabinetMap.mem_put hb with rfl | hb
        · show a.1 < i; omega
        · exact hm.1 b hb

/-- The canonical form, as a proposition. -/
theorem Memory.wf_iff (m : CabinetMap) :
    Memory.wf m = true ↔ (m.Pairwise fun a b => a.1 < b.1) ∧ ∀ e ∈ m, e.1 < 256 := by
  simp [Memory.wf]

/-- The empty map is canonical (R43). -/
@[simp] theorem Memory.wf_nil : Memory.wf [] = true := rfl

/-- A write keeps the canonical form. -/
theorem Memory.wf_put {m : CabinetMap} {i : Nat} {v : CabinetStatus} (h : Memory.wf m = true) (hi : i < 256) :
    Memory.wf (m.put i v) = true := by
  rw [Memory.wf_iff] at h ⊢
  refine ⟨CabinetMap.pairwise_put h.1, fun e he => ?_⟩
  rcases CabinetMap.mem_put he with rfl | he
  · exact hi
  · exact h.2 e he

/-- In a map with rising keys an entry is what its key reads as. -/
theorem CabinetMap.get_of_mem {m : CabinetMap} (h : m.Pairwise fun a b => a.1 < b.1) {e : Nat × CabinetStatus}
    (he : e ∈ m) : m.get e.1 = some e.2 := by
  induction m with
  | nil => simp at he
  | cons a m ih =>
    have hm := List.pairwise_cons.1 h
    rcases List.mem_cons.1 he with rfl | he
    · simp [CabinetMap.get]
    · have := hm.1 e he
      simp [CabinetMap.get, Nat.ne_of_lt this, ih hm.2 he]

/-- What a key reads as is an entry of that key. -/
theorem CabinetMap.mem_of_get {m : CabinetMap} {k : Nat} {v : CabinetStatus} (h : m.get k = some v) : (k, v) ∈ m := by
  induction m with
  | nil => simp [CabinetMap.get] at h
  | cons a m ih =>
    unfold CabinetMap.get at h
    split at h
    next hk => simp only [Option.some.injEq] at h; subst hk; subst h; exact List.mem_cons_self
    next => exact List.mem_cons_of_mem _ (ih h)

/-! The map operations of the state -/

/-- Marking a cabinet keeps the canonical form (R204, R212). -/
theorem State.mapMark_wf {s : State} (h : Memory.wf s.cabMap = true) (id : Byte) (st : CabState) :
    Memory.wf (s.mapMark id st).cabMap = true := Memory.wf_put h id.isLt

/-- Marking a cabinet keeps I6 of R44. -/
theorem State.mapMark_map_id {s : State} (h : ∀ e ∈ s.cabMap, e.2.id.toNat = e.1) (id : Byte) (st : CabState) :
    ∀ e ∈ (s.mapMark id st).cabMap, e.2.id.toNat = e.1 := by
  intro e he
  rcases CabinetMap.mem_put he with rfl | he
  · rfl
  · exact h e he

/-- Marking a cabinet stamps NOW, so no entry comes from the future. -/
theorem State.mapMark_past {s : State} (h : ∀ e ∈ s.cabMap, e.2.lastUpdatedAt ≤ s.now) (id : Byte) (st : CabState) :
    ∀ e ∈ (s.mapMark id st).cabMap, e.2.lastUpdatedAt ≤ s.now := by
  intro e he
  rcases CabinetMap.mem_put he with rfl | he
  · exact Nat.le_refl _
  · exact h e he

/-- Marking a cabinet, read back. -/
theorem State.mapGet_mapMark (s : State) (id k : Byte) (st : CabState) :
    (s.mapMark id st).mapGet k =
      if k = id then some { id := id, state := st, lastUpdatedAt := s.now } else s.mapGet k := by
  simp [State.mapGet, CabinetMap.get_put, BitVec.toNat_inj]

/-- The reset map is canonical (R43). -/
theorem State.reset_wf : Memory.wf State.reset.cabMap = true := rfl

/-! A merge's writes (R212) -/

/-- The writes of a merge change MAP only. -/
theorem marks_frame (d : List (Byte × CabState)) (s : State) :
    d.foldl (fun t p => t.mapMark p.1 p.2) s =
      { s with cabMap := (d.foldl (fun t p => t.mapMark p.1 p.2) s).cabMap } := by
  induction d generalizing s with
  | nil => rfl
  | cons p d ih => rw [List.foldl_cons, ih]; rfl

/-- A property of maps that every mark keeps holds after a merge. -/
theorem marks_induct {P : State → Prop} (hP : ∀ (s : State) (p : Byte × CabState), P s → P (s.mapMark p.1 p.2)) (d : List (Byte × CabState))
    {s : State} (h : P s) : P (d.foldl (fun t p => t.mapMark p.1 p.2) s) := by
  induction d generalizing s with
  | nil => exact h
  | cons p d ih => exact ih (hP s p h)

/-- What an ID reads as after the writes of pairs with distinct IDs. -/
theorem marks_get (d : List (Byte × CabState)) (s : State) (hd : (d.map Prod.fst).Nodup) (id : Byte) :
    (d.foldl (fun t p => t.mapMark p.1 p.2) s).mapGet id =
      match d.find? fun p => p.1 == id with
      | some p => some { id := id, state := p.2, lastUpdatedAt := s.now }
      | none => s.mapGet id := by
  induction d generalizing s with
  | nil => rfl
  | cons p d ih =>
    simp only [List.map_cons, List.nodup_cons] at hd
    rw [List.foldl_cons, ih _ hd.2]
    by_cases h : p.1 = id
    · have hn : d.find? (fun q => q.1 == id) = none := by
        rw [List.find?_eq_none]
        intro q hq hqi
        exact hd.1 (List.mem_map.2 ⟨q, hq, by simp_all⟩)
      simp [hn, h, State.mapGet_mapMark]
    · simp [h, State.mapGet_mapMark, Ne.symm h]

end Sys2Proof.Machine
end

