-- ==== Sys2Proof/Laws/Inbound.lean ====
section
/-! SUPPORT. What the handling of an inbound frame can do, said once (R211 to R213): the cases of `noteResponse`, the
effect of a merge, and the two classes of frames. -/

namespace Sys2Proof.Machine

open Sys2Proof

/-! The active job after a response (R212) -/

/-- What a merged response does to the active job, as a relation. -/
inductive NoteOutcome (s : State) : State → Prop where
  /-- An Awaiting status job resolves Fresh. -/
  | fresh (j : StatusJob) : s.active = some (.statusJob j) → j.phase = .awaiting →
      NoteOutcome s { s with active := none, out := s.out ++ [.response j.ticket (s.statusReport .fresh)] }
  /-- An AwaitTx status job remembers the response. -/
  | seen (j : StatusJob) : s.active = some (.statusJob j) → j.phase = .awaitTx →
      NoteOutcome s { s with active := some (.statusJob { j with respSeen := true }) }
  /-- Every other job is left as it is. -/
  | none : (∀ j, s.active = some (.statusJob j) → j.phase = .ready) → NoteOutcome s s

theorem noteResponse_outcome (s : State) : NoteOutcome s (noteResponse s) := by
  unfold noteResponse
  split
  next j ha =>
    split
    next hp => exact .none fun j' ha' => by simp_all
    next hp => exact .seen j ha hp
    next hp => exact .fresh j ha hp
  next hn => exact .none fun j ha => absurd ha (hn j)

/-- What a response leaves unchanged. -/
theorem noteResponse_frame (s : State) :
    noteResponse s = { s with active := (noteResponse s).active, out := (noteResponse s).out } := by
  have h := noteResponse_outcome s
  generalize noteResponse s = t at h
  cases h <;> rfl

/-- A merge is its map writes and then `noteResponse`. -/
theorem merge_eq (d : List (Byte × CabState)) (s : State) :
    ∃ m, m = (d.foldl (fun t p => t.mapMark p.1 p.2) s).cabMap ∧ merge d s = noteResponse { s with cabMap := m } :=
  ⟨_, rfl, by rw [merge, marks_frame]⟩

/-! The status lanes (R161) -/

/-- The 48 pairs of six status bytes. -/
def statusLanes (l : Bytes) : List (Byte × CabState) :=
  (List.range 6).flatMap fun j =>
    (List.range 8).map fun i => (BitVec.ofNat 8 (j * 8 + i), bitState ((byteAt l j).getLsbD i))

theorem statusLanes_ids (l : Bytes) : (statusLanes l).map Prod.fst = (List.range 48).map (BitVec.ofNat 8) := by
  simp only [statusLanes]; rfl

theorem statusLanes_nodup (l : Bytes) : ((statusLanes l).map Prod.fst).Nodup := by
  rw [statusLanes_ids]; decide

/-- The lane of an ID: bit `id mod 8` of byte `id div 8`, for the IDs 0 to 47. -/
theorem statusLanes_find (l : Bytes) (id : Byte) : (statusLanes l).find? (fun p => p.1 == id) =
    if id.toNat < 48 then some (id, bitState ((byteAt l (id.toNat / 8)).getLsbD (id.toNat % 8))) else none := by
  split
  next h =>
    obtain ⟨n, hn⟩ : ∃ n, n = id.toNat := ⟨_, rfl⟩
    have hid : id = BitVec.ofNat 8 n := by rw [hn]; simp
    rw [← hn] at h ⊢
    subst hid
    interval_cases n <;> rfl
  next h =>
    rw [List.find?_eq_none]
    intro p hp hpi
    have : p.1 ∈ (statusLanes l).map Prod.fst := List.mem_map.2 ⟨p, hp, rfl⟩
    rw [statusLanes_ids] at this
    simp at this hpi
    obtain ⟨a, ha, hb⟩ := this
    rw [← hpi, ← hb] at h
    simp at h
    omega

/-- The map after the writes of a status response (R212). -/
theorem statusLanes_marks_get (l : Bytes) (s : State) (id : Byte) :
    ((statusLanes l).foldl (fun t p => t.mapMark p.1 p.2) s).mapGet id =
      if id.toNat < 48 then some
        { id := id
          state := bitState ((byteAt l (id.toNat / 8)).getLsbD (id.toNat % 8))
          lastUpdatedAt := s.now }
      else s.mapGet id := by
  rw [marks_get _ _ (statusLanes_nodup l), statusLanes_find]
  by_cases h : id.toNat < 48
  · simp only [h, if_true]
  · simp only [h, if_false]

/-- What DECODE_STATUS returns of a STATUS_RESP frame. -/
theorem decodeStatusFn_statusRespFrame (c : Cfg) (a s0 s1 s2 s3 s4 s5 : Byte) {extra : Bytes} (h : extra.length ≤ 247) :
    decodeStatusFn c (statusRespFrame c a s0 s1 s2 s3 s4 s5 extra) = some (statusLanes [s0, s1, s2, s3, s4, s5]) := by
  have h1 := (isStatusResponse_iff _ _).1 (isStatusResponse_statusRespFrame c a s0 s1 s2 s3 s4 s5 h)
  have hl : (statusRespFrame c a s0 s1 s2 s3 s4 s5 extra).length = 12 + extra.length := by
    simp [statusRespFrame, statusRespBody]; omega
  unfold decodeStatusFn
  rw [if_neg (by omega), if_neg (by simp [h1.2.2]), if_neg (by omega)]
  rfl

/-! The two classes of frames (R80) -/

/-- A STATUS_RESP frame is reported and merged (R79, R211, R212). -/
theorem receiveFrame_statusResp (a s0 s1 s2 s3 s4 s5 : Byte) {extra : Bytes} (s : State) (h : extra.length ≤ 247) :
    receiveFrame (statusRespFrame s.cfg a s0 s1 s2 s3 s4 s5 extra) s =
      merge (statusLanes [s0, s1, s2, s3, s4, s5])
        ((s.setAcc (checksumFn s.cfg.poly (statusRespBody s.cfg a s0 s1 s2 s3 s4 s5 extra))).emit
          (.frame (statusRespFrame s.cfg a s0 s1 s2 s3 s4 s5 extra) true)) := by
  have h1 := (isStatusResponse_iff _ _).1 (isStatusResponse_statusRespFrame s.cfg a s0 s1 s2 s3 s4 s5 h)
  unfold receiveFrame onFrame
  rw [State.runValidate_of_ne_nil _ (by simp [statusRespFrame, sealFrame])]
  simp only [h1.1, h1.2.2, decodeStatusFn_statusRespFrame _ _ _ _ _ _ _ _ h, Bool.not_true, Bool.false_eq_true,
    if_false, if_true]
  rw [if_neg (by omega), statusRespFrame, sealFrame_dropLast]
  rfl

/-- The diagnostic of a frame that is no status response: the first check of R80 that applies. -/
def discardDiag (c : Cfg) (f : Bytes) (valid : Bool) : Diag :=
  if valid = false then .checksumMismatch (hexdumpFn f)
  else if frameLength f < 2 then .unrecognizedFrame (hexdumpFn f)
  else if frameInstruction f = c.instrStatusResp then .shortStatus (hexdumpFn f)
  else .unrecognizedInstruction (frameInstruction f)

/-- Any other frame is reported and discarded with a diagnostic (R80, R82, R211). -/
theorem onFrame_other (f : Bytes) (s : State) (h : isStatusResponse s.cfg f = false) :
    onFrame f (validateFn s.cfg.poly f) s =
      { s with out := s.out ++ [.frame f (validateFn s.cfg.poly f), .diag (discardDiag s.cfg f (validateFn s.cfg.poly f))] } := by
  have hs (hc : _) := Bool.false_ne_true (h.symm.trans ((isStatusResponse_iff _ _).2 hc))
  unfold onFrame discardDiag
  cases hv : validateFn s.cfg.poly f
  · simp [State.signal, State.emit]
  · by_cases h2 : frameLength f < 2
    · simp [h2, State.signal, State.emit]
    · by_cases hi : frameInstruction f = s.cfg.instrStatusResp
      · have h8 : frameLength f < 8 := by
          by_contra h8; exact hs ⟨hv, by omega, hi⟩
        have hd : decodeStatusFn s.cfg f = none := if_pos h8
        simp [h2, hi, hd, State.signal, State.emit]
      · simp [h2, hi, State.signal, State.emit]

/-- A frame of at least 11 bytes that is a status response is merged. -/
theorem onFrame_status (f : Bytes) (s : State) (h : isStatusResponse s.cfg f = true) (hl : 11 ≤ f.length) :
    ∃ d, decodeStatusFn s.cfg f = some d ∧
      onFrame f (validateFn s.cfg.poly f) s = merge d { s with out := s.out ++ [.frame f true] } := by
  have h1 := (isStatusResponse_iff _ _).1 h
  have hd : ∃ d, decodeStatusFn s.cfg f = some d := by
    unfold decodeStatusFn
    rw [if_neg (by omega), if_neg (by simp [h1.2.2]), if_neg (by omega)]
    exact ⟨_, rfl⟩
  obtain ⟨d, hd⟩ := hd
  refine ⟨d, hd, ?_⟩
  unfold onFrame
  simp only [h1.1, h1.2.2, hd, Bool.not_true, Bool.false_eq_true, if_false, if_true]
  rw [if_neg (by omega)]
  rfl

/-- A frame's validation, as one update. -/
theorem receiveFrame_eq (f : Bytes) (s : State) (hf : f ≠ []) :
    receiveFrame f s = onFrame f (validateFn s.cfg.poly f) (s.setAcc (checksumFn s.cfg.poly f.dropLast)) := by
  unfold receiveFrame
  rw [State.runValidate_of_ne_nil _ hf]
  rfl

/-- Discarding signals no spurious completion. -/
theorem discardDiag_ne_spurious (c : Cfg) (f : Bytes) (v : Bool) (k : SpuriousKind) :
    discardDiag c f v ≠ .spuriousTransportEvent k := by
  unfold discardDiag
  split
  · simp
  · split
    · simp
    · split <;> simp

/-- Everything the handling of one frame can do to the state: outputs are appended, marks change MAP, a response may
resolve or note the active job. -/
theorem onFrame_cases (f : Bytes) (v : Bool) (s : State) :
    onFrame f v s = { s with out := s.out ++ [.frame f v, .diag (discardDiag s.cfg f v)] } ∨
    (v = true ∧ 8 ≤ frameLength f ∧ frameInstruction f = s.cfg.instrStatusResp ∧
      ∃ d, onFrame f v s = merge d { s with out := s.out ++ [.frame f v] }) := by
  unfold onFrame discardDiag
  cases v
  · exact .inl (by simp [State.signal, State.emit])
  · by_cases h2 : frameLength f < 2
    · exact .inl (by simp [h2, State.signal, State.emit])
    · by_cases hi : frameInstruction f = s.cfg.instrStatusResp
      · cases hd : decodeStatusFn s.cfg f with
        | none => exact .inl (by simp [h2, hi, State.signal, State.emit])
        | some d =>
          refine .inr ⟨rfl, ?_, hi, d, by simp [h2, hi, State.emit]⟩
          by_contra h8
          simp [decodeStatusFn, show frameLength f < 8 by omega] at hd
      · exact .inl (by simp [h2, hi, State.signal, State.emit])

end Sys2Proof.Machine
end

