-- ==== Sys2Proof/Laws/Jobs.lean ====
section
/-! SUPPORT. What a job step and Advance() can do, said once (R196 to R203, R209): the cases of a job step, that the fuel
of Advance() suffices, its equation, its induction principle, its frame and its fixed points. -/

namespace Sys2Proof.Machine

open Sys2Proof

/-! Updates of jobs -/

/-- Resolve (R213), as one update. -/
theorem resolve_eq (j : StatusJob) (f : Freshness) (s : State) :
    resolve j f s = { s with active := none, out := s.out ++ [.response j.ticket (s.statusReport f)] } := rfl

/-- The end of a batch (R201), as one update. -/
theorem finishOpen_eq (j : OpenJob) (s : State) :
    finishOpen j s =
      { s with active := none, out := s.out ++ [.response j.ticket (.openResult j.opened j.failed)] } := rfl

/-- A slot that fails NotConnected (R202), as one update. -/
theorem openFail_eq (j : OpenJob) (id : Byte) (s : State) :
    (s.setActive (some (.openJob (j.fail id .notConnected)))).settle =
      { s with active := some (.openJob (j.fail id .notConnected)), nextSendAt := s.now + s.cfg.settleTime } := rfl

/-- The write of an open command (R203), as one update. -/
theorem openWrite_eq (j : OpenJob) (id : Byte) (s : State) :
    (s.writeFrame [id] s.cfg.instrOpen).setActive (some (.openJob { j with phase := .awaitTx })) =
      { s with
        acc := checksumFn s.cfg.poly (frameBody s.cfg [id] s.cfg.address s.cfg.instrOpen)
        active := some (.openJob { j with phase := .awaitTx })
        out := s.out ++ [.txFrame (sealFrame s.cfg.poly (frameBody s.cfg [id] s.cfg.address s.cfg.instrOpen))] } := by
  rw [State.writeFrame_of_short s _ (by simp)]; rfl

/-- The write of a status request (R209), as one update. -/
theorem statusWrite_eq (j : StatusJob) (s : State) :
    (s.writeFrame [] s.cfg.instrStatusReq).setActive (some (.statusJob { j with phase := .awaitTx })) =
      { s with
        acc := checksumFn s.cfg.poly (frameBody s.cfg [] s.cfg.address s.cfg.instrStatusReq)
        active := some (.statusJob { j with phase := .awaitTx })
        out := s.out ++ [.txFrame (sealFrame s.cfg.poly (frameBody s.cfg [] s.cfg.address s.cfg.instrStatusReq))] } := by
  rw [State.writeFrame_of_short s _ (by simp)]; rfl

/-! Job steps -/

/-- What a job step does, as a relation: the outcomes of R201, R202, R203 and R209. The last argument is whether the job
progressed. -/
inductive JobOutcome (s : State) : Job → State → Bool → Prop where
  /-- A finished batch is answered (R201). -/
  | finish (j : OpenJob) : j.ids[j.k]? = none →
      JobOutcome s (.openJob j)
        { s with active := none, out := s.out ++ [.response j.ticket (.openResult j.opened j.failed)] } true
  /-- A slot waits for pacing (R202, R209). -/
  | wait (j : Job) : j.Unfinished → s.now < s.nextSendAt → JobOutcome s j s false
  /-- An ID fails NotConnected (R202). -/
  | openFail (j : OpenJob) (id : Byte) : j.ids[j.k]? = some id → s.nextSendAt ≤ s.now → s.conn ≠ .connected →
      JobOutcome s (.openJob j)
        { s with active := some (.openJob (j.fail id .notConnected)), nextSendAt := s.now + s.cfg.settleTime } true
  /-- An open command is written (R203). -/
  | openWrite (j : OpenJob) (id : Byte) : j.ids[j.k]? = some id → s.nextSendAt ≤ s.now → s.conn = .connected →
      JobOutcome s (.openJob j)
        { s with
          acc := checksumFn s.cfg.poly (frameBody s.cfg [id] s.cfg.address s.cfg.instrOpen)
          active := some (.openJob { j with phase := .awaitTx })
          out := s.out ++ [.txFrame (sealFrame s.cfg.poly (frameBody s.cfg [id] s.cfg.address s.cfg.instrOpen))] }
        false
  /-- A status job resolves NotConnected (R209). -/
  | statusFail (j : StatusJob) : s.nextSendAt ≤ s.now → s.conn ≠ .connected →
      JobOutcome s (.statusJob j)
        { s with
          active := none
          nextSendAt := s.now + s.cfg.settleTime
          out := s.out ++ [.response j.ticket (s.statusReport .notConnected)] } true
  /-- A status request is written (R209). -/
  | statusWrite (j : StatusJob) : s.nextSendAt ≤ s.now → s.conn = .connected →
      JobOutcome s (.statusJob j)
        { s with
          acc := checksumFn s.cfg.poly (frameBody s.cfg [] s.cfg.address s.cfg.instrStatusReq)
          active := some (.statusJob { j with phase := .awaitTx })
          out := s.out ++ [.txFrame (sealFrame s.cfg.poly (frameBody s.cfg [] s.cfg.address s.cfg.instrStatusReq))] }
        false

/-- Every job step is one of the outcomes. -/
theorem jobStep_outcome (j : Job) (s : State) : JobOutcome s j (jobStep j s).1 (jobStep j s).2 := by
  cases j with
  | openJob o =>
    unfold jobStep
    dsimp only
    split
    next h => exact .finish o h
    next id h =>
      unfold sendOpen
      split
      next hw => exact .wait _ (List.getElem?_eq_some_iff.1 h).1 hw
      next hw =>
        split
        next hc => exact .openFail o id h (by omega) hc
        next hc =>
          rw [openWrite_eq]
          exact .openWrite o id h (by omega) (Classical.not_not.1 hc)
  | statusJob t =>
    unfold jobStep sendStatusReq
    dsimp only
    split
    next hw => exact .wait _ trivial hw
    next hw =>
      split
      next hc => exact .statusFail t (by omega) hc
      next hc =>
        rw [statusWrite_eq]
        exact .statusWrite t (by omega) (Classical.not_not.1 hc)

/-! Dequeuing (R197) -/

theorem dequeue_of_active {s : State} {j : Job} (h : s.active = some j) : dequeue s = s := by
  simp [dequeue, h]

theorem dequeue_of_empty {s : State} (h : s.queue = []) : dequeue s = s := by
  unfold dequeue; split <;> simp_all

theorem dequeue_of_cons {s : State} {j : Job} {rest : List Job} (ha : s.active = none) (hq : s.queue = j :: rest) :
    dequeue s = { s with active := some j, queue := rest } := by
  simp [dequeue, ha, hq]

/-- Dequeuing moves the head of the queue into the empty active slot, or does nothing. -/
theorem dequeue_cases (s : State) :
    (dequeue s = s ∧ (s.active = none → s.queue = [])) ∨
    ∃ j rest, s.active = none ∧ s.queue = j :: rest ∧ dequeue s = { s with active := some j, queue := rest } := by
  cases ha : s.active with
  | some j => exact .inl ⟨dequeue_of_active ha, by simp⟩
  | none =>
    cases hq : s.queue with
    | nil => exact .inl ⟨dequeue_of_empty hq, by simp⟩
    | cons j rest => exact .inr ⟨j, rest, rfl, rfl, dequeue_of_cons ha hq⟩

/-- With no active job after it, dequeuing has done nothing and the queue is empty. -/
theorem dequeue_none {s : State} (h : (dequeue s).active = none) : dequeue s = s ∧ s.active = none ∧ s.queue = [] := by
  rcases dequeue_cases s with ⟨he, hq⟩ | ⟨j, rest, _, _, he⟩
  · exact ⟨he, he ▸ h, hq (he ▸ h)⟩
  · simp [he] at h

@[simp] theorem dequeue_idem (s : State) : dequeue (dequeue s) = dequeue s := by
  rcases dequeue_cases s with ⟨he, _⟩ | ⟨j, rest, _, _, he⟩
  · rw [he, he]
  · rw [he]; exact dequeue_of_active rfl

/-- Dequeuing keeps the unresolved jobs and their order. -/
theorem dequeue_jobs (s : State) : (dequeue s).jobs = s.jobs := by
  rcases dequeue_cases s with ⟨he, _⟩ | ⟨j, rest, ha, hq, he⟩
  · rw [he]
  · simp [he, State.jobs, ha, hq]

/-! The fuel of Advance() -/

/-- Dequeuing keeps the work. -/
theorem work_dequeue (s : State) : (dequeue s).work = s.work := by
  rcases dequeue_cases s with ⟨he, _⟩ | ⟨j, rest, ha, hq, he⟩
  · rw [he]
  · rw [he]; simp [State.work, ha, hq]

/-- A job step that progresses takes work away. -/
theorem work_jobStep {s : State} {j : Job} (ha : s.active = some j) (hp : (jobStep j s).2 = true) :
    (jobStep j s).1.work < s.work := by
  have h := jobStep_outcome j s
  rw [hp] at h
  generalize (jobStep j s).1 = t at h
  cases h with
  | finish o hk => simp [State.work, ha, Job.work]
  | openFail o id hk _ _ =>
    have := (List.getElem?_eq_some_iff.1 hk).1
    simp [State.work, ha, Job.work, OpenJob.fail]; omega
  | statusFail o _ _ => simp [State.work, ha, Job.work]

/-- One pass of the loop. -/
theorem advanceLoop_succ (n : Nat) (s : State) :
    advanceLoop (n + 1) s =
      match (dequeue s).active with
      | none => dequeue s
      | some j =>
        if j.isReady then
          if (jobStep j (dequeue s)).2 then advanceLoop n (jobStep j (dequeue s)).1 else (jobStep j (dequeue s)).1
        else dequeue s := rfl

/-- More fuel than work makes no difference. -/
theorem advanceLoop_fuel (n m : Nat) (s : State) (hn : s.work < n) (hm : s.work < m) :
    advanceLoop n s = advanceLoop m s := by
  induction n generalizing m s with
  | zero => omega
  | succ n ih =>
    obtain ⟨m, rfl⟩ : ∃ m', m = m' + 1 := ⟨m - 1, by omega⟩
    rw [advanceLoop_succ, advanceLoop_succ]
    cases ha : (dequeue s).active with
    | none => rfl
    | some j =>
      dsimp only
      split
      · split
        next hp =>
          have := work_jobStep ha hp
          rw [work_dequeue] at this
          exact ih _ _ (by omega) (by omega)
        · rfl
      · rfl

/-- The equation of Advance() (R196), free of fuel. -/
theorem advance_eq (s : State) :
    advance s =
      match (dequeue s).active with
      | none => dequeue s
      | some j =>
        if j.isReady then
          if (jobStep j (dequeue s)).2 then advance (jobStep j (dequeue s)).1 else (jobStep j (dequeue s)).1
        else dequeue s := by
  rw [advance, advanceLoop_succ]
  cases ha : (dequeue s).active with
  | none => rfl
  | some j =>
    dsimp only
    split
    · split
      next hp =>
        have := work_jobStep ha hp
        rw [work_dequeue] at this
        exact advanceLoop_fuel _ _ _ this (Nat.lt_succ_self _)
      · rfl
    · rfl

/-- The induction principle of Advance(): its three ways to return, and one job step that progresses before it. -/
theorem advance_induct {P : State → State → Prop}
    (idle : ∀ s, s.active = none → s.queue = [] → P s s)
    (waits : ∀ s j, (dequeue s).active = some j → j.isReady = false → P s (dequeue s))
    (last : ∀ s j, (dequeue s).active = some j → j.isReady = true → (jobStep j (dequeue s)).2 = false →
      P s (jobStep j (dequeue s)).1)
    (more : ∀ s j, (dequeue s).active = some j → j.isReady = true → (jobStep j (dequeue s)).2 = true →
      P (jobStep j (dequeue s)).1 (advance (jobStep j (dequeue s)).1) →
      P s (advance (jobStep j (dequeue s)).1)) (s : State) : P s (advance s) := by
  generalize hw : s.work = w
  induction w using Nat.strongRecOn generalizing s with
  | _ w ih =>
    rw [advance_eq]
    cases ha : (dequeue s).active with
    | none =>
      obtain ⟨he, h1, h2⟩ := dequeue_none ha
      dsimp only
      rw [he]; exact idle s h1 h2
    | some j =>
      dsimp only
      split
      next hr =>
        split
        next hp =>
          have hlt := work_jobStep ha hp
          rw [work_dequeue, hw] at hlt
          exact more s j ha hr hp (ih _ hlt _ rfl)
        next hp => exact last s j ha hr (by simpa using hp)
      next hr => exact waits s j ha (by simpa using hr)

/-- A property that dequeuing and every job step of a Ready active job keep holds after Advance(). -/
theorem advance_keeps {P : State → Prop} (hd : ∀ s, P s → P (dequeue s))
    (hj : ∀ s j, P s → s.active = some j → j.isReady = true → P (jobStep j s).1) {s : State} (h : P s) :
    P (advance s) := by
  refine advance_induct (P := fun s t => P s → P t) (fun s _ _ h => h) (fun s j _ _ h => hd s h)
    (fun s j ha hr _ h => hj _ j (hd s h) ha hr) (fun s j ha hr _ ih h => ih (hj _ j (hd s h) ha hr)) s h

/-- Advance() runs as far as it can (R196). -/
theorem advance_quiescent (s : State) : (advance s).Quiescent := by
  refine advance_induct (P := fun _ t => t.Quiescent) ?_ ?_ ?_ (fun _ _ _ _ _ ih => ih) s
  · exact fun s ha hq => ⟨fun _ => hq, by simp [ha], by simp [ha]⟩
  · exact fun s j ha hr => ⟨by simp [ha], fun j' ha' hr' => by simp_all, fun j' ha' hr' => by simp_all⟩
  · intro s j ha hr hp
    have h := jobStep_outcome j (dequeue s)
    rw [hp] at h
    generalize (jobStep j (dequeue s)).1 = t at h
    cases h with
    | wait _ hu hw =>
      refine ⟨by simp [ha], fun _ _ _ => hw, fun j' ha' _ => ?_⟩
      obtain rfl := Option.some.inj (ha.symm.trans ha')
      exact hu
    | openWrite o id _ _ _ => exact ⟨by simp, by simp [Job.isReady], by simp [Job.isReady]⟩
    | statusWrite o _ _ => exact ⟨by simp, by simp [Job.isReady], by simp [Job.isReady]⟩

/-- A job step before its time does nothing, but for a finished batch. -/
theorem jobStep_wait {s : State} {j : Job} (hw : s.now < s.nextSendAt) (hu : j.Unfinished) :
    jobStep j s = (s, false) := by
  cases j with
  | openJob o => simp [jobStep, List.getElem?_eq_getElem (show o.k < o.ids.length from hu), sendOpen, hw]
  | statusJob t => simp [jobStep, sendStatusReq, hw]

/-- Where nothing is left to do, Advance() does nothing. -/
theorem advance_of_quiescent {s : State} (h : s.Quiescent) : advance s = s := by
  have hd : dequeue s = s := by
    cases ha : s.active
    · exact dequeue_of_empty (h.idle ha)
    · exact dequeue_of_active ha
  rw [advance_eq, hd]
  cases ha : s.active with
  | none => rfl
  | some j =>
    dsimp only
    split
    next hr => simp [jobStep_wait (h.paced j ha hr) (h.unfinished j ha hr)]
    next => rfl

/-- The frame of Advance(): what it leaves unchanged. -/
theorem advance_frame (s : State) : ∃ (n : Nat) (os : List Output), advance s = { s with
    acc := (advance s).acc, queue := s.queue.drop n, active := (advance s).active,
    nextSendAt := (advance s).nextSendAt, out := s.out ++ os } := by
  have hd (s : State) : ∃ n, dequeue s = { s with active := (dequeue s).active, queue := s.queue.drop n } := by
    rcases dequeue_cases s with ⟨he, _⟩ | ⟨j, rest, _, hq, he⟩
    · exact ⟨0, by rw [he]; rfl⟩
    · exact ⟨1, by rw [he]; simp [hq]⟩
  have hj (j : Job) (s : State) : ∃ os, (jobStep j s).1 = { s with
      acc := (jobStep j s).1.acc, active := (jobStep j s).1.active
      nextSendAt := (jobStep j s).1.nextSendAt, out := s.out ++ os } := by
    have h := jobStep_outcome j s
    generalize (jobStep j s).1 = t at h
    generalize (jobStep j s).2 = b at h
    cases h with
    | finish => exact ⟨_, rfl⟩
    | wait => exact ⟨[], by simp⟩
    | openFail => exact ⟨[], by simp⟩
    | openWrite => exact ⟨_, rfl⟩
    | statusFail => exact ⟨_, rfl⟩
    | statusWrite => exact ⟨_, rfl⟩
  refine advance_induct (P := fun s t => ∃ (n : Nat) (os : List Output), t = { s with
    acc := t.acc, queue := s.queue.drop n, active := t.active, nextSendAt := t.nextSendAt, out := s.out ++ os })
    ?_ ?_ ?_ ?_ s
  · exact fun s _ _ => ⟨0, [], by simp⟩
  · intro s j _ _
    obtain ⟨n, h⟩ := hd s
    exact ⟨n, [], by rw [h]; simp⟩
  · intro s j _ _ _
    obtain ⟨n, h⟩ := hd s
    obtain ⟨os, h'⟩ := hj j (dequeue s)
    refine ⟨n, os, ?_⟩
    generalize (jobStep j (dequeue s)).1 = t at h'
    rw [h'] ; rw [h]
  · intro s j _ _ _ ih
    obtain ⟨n, h⟩ := hd s
    obtain ⟨os, h'⟩ := hj j (dequeue s)
    obtain ⟨n', os', h''⟩ := ih
    generalize (jobStep j (dequeue s)).1 = t at *
    refine ⟨n + n', os ++ os', ?_⟩
    rw [h'', h', h]
    simp [List.drop_drop]

end Sys2Proof.Machine
end

