-- ==== Sys2Proof/Laws/PerInstr.lean ====
section
/-! SUPPORT. Laws said of every instruction, one lemma per constructor. `EncodePort`: an instruction has an encoding
exactly when it has a port, and the encoding is read from that port; so an internal operation has none (R90). -/

namespace Sys2Proof.Laws.EncodePort

open Sys2Proof

/-- The encoding of an instruction is read from the instruction's port. -/
def Statement (i : Instr) : Prop := ∀ c : Cfg, (encode c i).map Coded.port = i.port

theorem openFrame (id : Byte) : Statement (.openFrame id) := fun _ => rfl
theorem statusReq : Statement (.statusReq) := fun _ => rfl
theorem statusResp (a : Byte) (s0 : Byte) (s1 : Byte) (s2 : Byte) (s3 : Byte) (s4 : Byte) (s5 : Byte) (extra : Bytes) : Statement (.statusResp a s0 s1 s2 s3 s4 s5 extra) := fun _ => rfl
theorem inboundOther (f : Bytes) : Statement (.inboundOther f) := fun _ => rfl
theorem connect (path : OpaqueValue) (baud : Nat) : Statement (.connect path baud) := fun _ => rfl
theorem disconnect : Statement (.disconnect) := fun _ => rfl
theorem openCabinets (ids : List Int) : Statement (.openCabinets ids) := fun _ => rfl
theorem getStatus (b : Bool) : Statement (.getStatus b) := fun _ => rfl
theorem resetStatus : Statement (.resetStatus) := fun _ => rfl
theorem connectDone (r : TransportResult) : Statement (.connectDone r) := fun _ => rfl
theorem txDone (r : TransportResult) : Statement (.txDone r) := fun _ => rfl
theorem rx (chunk : Bytes) : Statement (.rx chunk) := fun _ => rfl
theorem lineLost : Statement (.lineLost) := fun _ => rfl
theorem tick (t : Nat) : Statement (.tick t) := fun _ => rfl
theorem round : Statement (.round) := fun _ => rfl
theorem ckInit : Statement (.ckInit) := fun _ => rfl
theorem ckByte (b : Byte) : Statement (.ckByte b) := fun _ => rfl
theorem checksum (bs : Bytes) : Statement (.checksum bs) := fun _ => rfl
theorem build (p : Bytes) (a : Byte) (i : Byte) : Statement (.build p a i) := fun _ => rfl
theorem validate (f : Bytes) : Statement (.validate f) := fun _ => rfl
theorem hexdump (bs : Bytes) : Statement (.hexdump bs) := fun _ => rfl
theorem reassemble (chunk : Bytes) : Statement (.reassemble chunk) := fun _ => rfl
theorem decodeStatus (f : Bytes) : Statement (.decodeStatus f) := fun _ => rfl

end Sys2Proof.Laws.EncodePort
end

