-- ==== Sys2Proof/Laws/Reassembler.lean ====
section
/-! SUPPORT. What the reassembler can do, said once: its loop takes the buffer apart by `Cuts` (R143 to R146); `Cuts` is a
function of the buffer; a cut prefix of the stream is cut the same when more bytes follow (R150); what stays is a
residue (R151). -/

namespace Sys2Proof.Machine

open Sys2Proof

/-- ACC after the validation of frames, the last one's checksum (R100). -/
def accAfter (c : Cfg) (acc : Byte) (fs : List Bytes) : Byte :=
  match fs.getLast? with
  | none => acc
  | some f => checksumFn c.poly f.dropLast

theorem accAfter_nil (c : Cfg) (acc : Byte) : accAfter c acc [] = acc := rfl

theorem accAfter_cons (c : Cfg) (acc : Byte) (f : Bytes) (fs : List Bytes) :
    accAfter c (checksumFn c.poly f.dropLast) fs = accAfter c acc (f :: fs) := by
  cases fs with
  | nil => rfl
  | cons g gs => simp [accAfter, List.getLast?_cons]

/-- The state and frames of a call that took its buffer apart into `drops`, `fs` and `rest`. -/
def afterCuts (s : State) (drops : List Byte) (fs : List Bytes) (rest : Bytes) : State × List (Bytes × Bool) :=
  ({ s with
      rxbuf := rest
      acc := accAfter s.cfg s.acc fs
      out := s.out ++ drops.map fun b => .diag (.resyncDrop b) },
    fs.map fun f => (f, validateFn s.cfg.poly f))

/-- The loop of REASSEMBLE takes the buffer apart by `Cuts` (R141). -/
theorem reassembleLoop_cuts (fuel : Nat) (s : State) (h : s.rxbuf.length < fuel) :
    ∃ drops fs rest, Cuts s.cfg s.rxbuf drops fs rest ∧ reassembleLoop fuel s = afterCuts s drops fs rest := by
  induction fuel generalizing s with
  | zero => omega
  | succ fuel ih =>
    unfold reassembleLoop
    split
    next hlt => exact ⟨[], [], s.rxbuf, .short hlt, by simp [afterCuts, accAfter_nil]⟩
    next hge =>
      simp only [State.bufLen, Nat.not_lt] at hge
      obtain ⟨b, buf, hb⟩ : ∃ b buf, s.rxbuf = b :: buf := by
        cases hr : s.rxbuf with
        | nil => simp [hr] at hge
        | cons b buf => exact ⟨b, buf, rfl⟩
      split
      next hne =>
        have hlen : (((s.signal (.resyncDrop (s.bufRead 0))).bufDrop 1)).rxbuf.length < fuel := by
          simp; omega
        obtain ⟨ds, fs, rest, hc, he⟩ := ih _ hlen
        simp only [State.bufDrop_cfg, State.signal_cfg, State.bufDrop_rxbuf, State.signal_rxbuf, hb,
          List.drop_succ_cons, List.drop_zero] at hc
        refine ⟨b :: ds, fs, rest, ?_, ?_⟩
        · rw [hb]
          refine .drop (by rw [← hb]; exact hge) ?_ hc
          simpa [State.bufRead, byteAt, hb] using hne
        · rw [he]
          have hb0 : s.bufRead 0 = b := by simp [State.bufRead, byteAt, hb]
          simp [afterCuts, State.bufDrop, State.signal, State.emit, hb0]
      next heq =>
        rw [not_or, Classical.not_not, Classical.not_not] at heq
        simp only [State.bufRead, State.bufLen] at heq ⊢
        by_cases hw : s.rxbuf.length < (byteAt s.rxbuf 2).toNat + 4
        · simp only [hw, if_true]
          exact ⟨[], [], s.rxbuf, .wait hge heq.1 heq.2 hw, by simp [afterCuts, accAfter_nil]⟩
        · simp only [hw, if_false]
          have hnw : (byteAt s.rxbuf 2).toNat + 4 ≤ s.rxbuf.length := by omega
          have hne : s.rxbuf.take ((byteAt s.rxbuf 2).toNat + 4) ≠ [] := by
            rw [hb]; simp
          have hlen : ((s.bufDrop ((byteAt s.rxbuf 2).toNat + 4)).runValidate
              (s.bufSlice ((byteAt s.rxbuf 2).toNat + 4))).rxbuf.length < fuel := by
            simp; omega
          obtain ⟨ds, fs, rest, hc, he⟩ := ih _ hlen
          simp only [State.runValidate_cfg, State.bufDrop_cfg, State.runValidate_rxbuf, State.bufDrop_rxbuf] at hc
          have hat (i : Nat) (hi : i < 4) :
              byteAt (s.rxbuf.take ((byteAt s.rxbuf 2).toNat + 4)) i = byteAt s.rxbuf i := by
            have : i < (byteAt s.rxbuf 2).toNat + 4 := by omega
            simp only [byteAt, List.getD_eq_getElem?_getD, List.getElem?_take] at this ⊢
            rw [if_pos this]
          have htl : (s.rxbuf.take ((byteAt s.rxbuf 2).toNat + 4)).length = (byteAt s.rxbuf 2).toNat + 4 := by
            simp; omega
          refine ⟨ds, s.rxbuf.take ((byteAt s.rxbuf 2).toNat + 4) :: fs, rest, ?_, ?_⟩
          · have := Cuts.cut (f := s.rxbuf.take ((byteAt s.rxbuf 2).toNat + 4)) (by omega)
              ((hat 0 (by omega)).trans heq.1) ((hat 1 (by omega)).trans heq.2)
              (by rw [htl, hat 2 (by omega)]) hc
            rwa [List.take_append_drop] at this
          · rw [he]
            simp only [afterCuts, State.bufSlice, State.runValidate_of_ne_nil _ hne, State.bufDrop, List.map_cons]
            rw [← accAfter_cons s.cfg s.acc]

/-- REASSEMBLE without overflow (R141). -/
theorem reassemble_cuts (chunk : Bytes) (s : State) (h : s.rxbuf.length + chunk.length ≤ s.cfg.bufCap) :
    ∃ drops fs rest, Cuts s.cfg (s.rxbuf ++ chunk) drops fs rest ∧
      reassemble chunk s = afterCuts s drops fs rest := by
  obtain ⟨ds, fs, rest, hc, he⟩ :=
    reassembleLoop_cuts ((s.bufAppend chunk).bufLen + 1) (s.bufAppend chunk) (Nat.lt_succ_self _)
  refine ⟨ds, fs, rest, hc, ?_⟩
  have : ¬ s.cfg.bufCap < s.bufLen + chunk.length := by unfold State.bufLen; omega
  rw [reassemble, if_neg this, he]
  rfl

/-- REASSEMBLE with overflow (R142). -/
theorem reassemble_overflow (chunk : Bytes) (s : State) (h : s.cfg.bufCap < s.rxbuf.length + chunk.length) :
    reassemble chunk s =
      ({ s with rxbuf := [], out := s.out ++ [.diag (.bufferOverflow (s.rxbuf.length + chunk.length))] }, []) := by
  have : s.cfg.bufCap < s.bufLen + chunk.length := h
  rw [reassemble, if_pos this]
  rfl

/-- Everything REASSEMBLE can do, in one lemma. -/
theorem reassemble_cases (chunk : Bytes) (s : State) :
    (s.cfg.bufCap < s.rxbuf.length + chunk.length ∧ reassemble chunk s =
      ({ s with rxbuf := [], out := s.out ++ [.diag (.bufferOverflow (s.rxbuf.length + chunk.length))] }, [])) ∨
    (s.rxbuf.length + chunk.length ≤ s.cfg.bufCap ∧ ∃ drops fs rest,
      Cuts s.cfg (s.rxbuf ++ chunk) drops fs rest ∧ reassemble chunk s = afterCuts s drops fs rest) := by
  by_cases h : s.cfg.bufCap < s.rxbuf.length + chunk.length
  · exact .inl ⟨h, reassemble_overflow chunk s h⟩
  · exact .inr ⟨by omega, reassemble_cuts chunk s (by omega)⟩

/-! `Cuts` -/

theorem byteAt_append_left {f g : Bytes} {i : Nat} (h : i < f.length) : byteAt (f ++ g) i = byteAt f i := by
  simp [byteAt, List.getElem?_append_left h]

theorem byteAt_cons_zero (b : Byte) (f : Bytes) : byteAt (b :: f) 0 = b := rfl

theorem byteAt_cons_succ (b : Byte) (f : Bytes) (i : Nat) : byteAt (b :: f) (i + 1) = byteAt f i := rfl

/-- What stays is a residue (R151). -/
theorem Cuts.residue {c : Cfg} {buf : Bytes} {ds : List Byte} {fs : List Bytes} {rest : Bytes}
    (h : Cuts c buf ds fs rest) : Residue c rest := by
  induction h with
  | short h => exact .inl h
  | drop _ _ _ ih => exact ih
  | wait _ h0 h1 hl => exact .inr ⟨h0, h1, hl⟩
  | cut _ _ _ _ _ ih => exact ih

/-- A residue is left as it is (R154). -/
theorem Cuts.of_residue {c : Cfg} {buf : Bytes} (h : Residue c buf) : Cuts c buf [] [] buf := by
  by_cases hl : buf.length < 4
  · exact .short hl
  · rcases h with h | ⟨h0, h1, h2⟩
    · exact absurd h hl
    · exact .wait (by omega) h0 h1 h2

/-- A cut frame has the shape of a frame (R146). -/
theorem Cuts.isFrame {c : Cfg} {buf : Bytes} {ds : List Byte} {fs : List Bytes} {rest : Bytes}
    (h : Cuts c buf ds fs rest) : ∀ f ∈ fs, isFrame c f = true := by
  induction h with
  | short _ => simp
  | drop _ _ _ ih => exact ih
  | wait _ _ _ _ => simp
  | cut hl h0 h1 h2 _ ih =>
    intro f hf
    rcases List.mem_cons.1 hf with rfl | hf
    · exact (isFrame_iff _ _).2 ⟨hl, h0, h1, h2⟩
    · exact ih f hf

/-- What stays is no longer than the buffer was. -/
theorem Cuts.length_le {c : Cfg} {buf : Bytes} {ds : List Byte} {fs : List Bytes} {rest : Bytes}
    (h : Cuts c buf ds fs rest) : rest.length ≤ buf.length := by
  induction h with
  | short _ => exact Nat.le_refl _
  | drop _ _ _ ih => simp; omega
  | wait _ _ _ _ => exact Nat.le_refl _
  | cut _ _ _ _ _ ih => simp; omega

/-- More bytes after a buffer do not change what was cut from it: the rest goes on with them (R150). -/
theorem Cuts.append {c : Cfg} {a b : Bytes} {ds ds' : List Byte} {fs fs' : List Bytes} {rest rest' : Bytes}
    (h : Cuts c a ds fs rest) (h' : Cuts c (rest ++ b) ds' fs' rest') :
    Cuts c (a ++ b) (ds ++ ds') (fs ++ fs') rest' := by
  induction h with
  | short _ => exact h'
  | @drop x buf ds fs rest hl hne _ ih =>
    refine .drop (by simp at hl ⊢; omega) ?_ (ih h')
    rcases hne with hne | hne
    · exact .inl hne
    · refine .inr ?_
      show byteAt (buf ++ b) 0 ≠ c.hdr1
      rwa [byteAt_append_left (by simp at hl; omega)]
  | wait _ _ _ _ => exact h'
  | @cut f buf ds fs rest hl h0 h1 h2 _ ih =>
    rw [List.append_assoc]
    exact .cut hl h0 h1 h2 (ih h')

/-- `Cuts` is a function of the buffer. -/
theorem Cuts.unique {c : Cfg} {buf : Bytes} {ds ds' : List Byte} {fs fs' : List Bytes} {rest rest' : Bytes}
    (h : Cuts c buf ds fs rest) (h' : Cuts c buf ds' fs' rest') : ds = ds' ∧ fs = fs' ∧ rest = rest' := by
  induction h generalizing ds' fs' rest' with
  | @short buf hs =>
    cases h' with
    | short _ => exact ⟨rfl, rfl, rfl⟩
    | drop hl _ _ => omega
    | wait hl _ _ _ => omega
    | cut hl _ _ _ _ => simp at hs; omega
  | @drop x buf ds fs rest hl hne _ ih =>
    generalize hg : x :: buf = g at h'
    cases h' with
    | short hs => rw [← hg] at hs; omega
    | drop _ _ hc =>
      obtain ⟨rfl, rfl⟩ := List.cons.inj hg
      obtain ⟨h1, h2, h3⟩ := ih hc
      exact ⟨by rw [h1], h2, h3⟩
    | wait _ h0 h1 _ =>
      rw [← hg] at h0 h1
      rw [byteAt_cons_zero] at h0
      rw [byteAt_cons_succ] at h1
      exact (hne.elim (fun h => h h0) fun h => h h1).elim
    | @cut f b' _ _ _ hf h0 h1 _ _ =>
      rw [← byteAt_append_left (g := b') (by omega), ← hg] at h0 h1
      rw [byteAt_cons_zero] at h0
      rw [byteAt_cons_succ] at h1
      exact (hne.elim (fun h => h h0) fun h => h h1).elim
  | @wait buf hl h0 h1 hw =>
    cases h' with
    | short hs => exact ⟨rfl, rfl, rfl⟩
    | drop _ hne _ =>
      rw [byteAt_cons_zero] at h0
      rw [byteAt_cons_succ] at h1
      exact (hne.elim (fun h => h h0) fun h => h h1).elim
    | wait _ _ _ _ => exact ⟨rfl, rfl, rfl⟩
    | @cut f b' _ _ _ hf _ _ h2 _ =>
      rw [byteAt_append_left (by omega)] at hw
      simp at hw; omega
  | @cut f buf ds fs rest hl h0 h1 h2 _ ih =>
    generalize hg : f ++ buf = g at h'
    cases h' with
    | short hs => rw [← hg] at hs; simp at hs; omega
    | @drop x b' _ _ _ _ hne _ =>
      rw [← byteAt_append_left (g := buf) (by omega), hg] at h0 h1
      rw [byteAt_cons_zero] at h0
      rw [byteAt_cons_succ] at h1
      exact (hne.elim (fun h => h h0) fun h => h h1).elim
    | wait _ _ _ hw =>
      rw [← hg, byteAt_append_left (by omega)] at hw
      simp at hw; omega
    | @cut f' b' _ _ _ hf _ _ h2' hc =>
      have hb : byteAt f 2 = byteAt f' 2 := by
        rw [← byteAt_append_left (g := buf) (by omega), hg, byteAt_append_left (by omega)]
      obtain ⟨rfl, rfl⟩ := List.append_inj hg (by rw [h2, h2', hb])
      obtain ⟨g1, g2, g3⟩ := ih hc
      exact ⟨g1, by rw [g2], g3⟩

end Sys2Proof.Machine
end

