-- ==== Sys2Proof/Tests/Slice0.lean ====
section
/-! SUPPORT. Tests. The configuration and the expected values are those of spec/95_test_vectors.md (its row names stand in
the comments); the encodings are written out from R77 to R80, R85 and R88. Last come the witnesses: for every statement
with hypotheses, states and operands that meet them. -/

namespace Sys2Proof.Tests

open Sys2Proof Sys2Proof.Machine

-- One test after the other: each kernel evaluation would hold a thread of its own.
set_option Elab.async false

/-- The test configuration (spec/95_test_vectors.md section 1). -/
def cfg : Cfg where
  hdr0 := 0xAA#8
  hdr1 := 0x55#8
  poly := 0x8C#8
  instrOpen := 0x50#8
  instrStatusReq := 0x51#8
  instrStatusResp := 0x51#8
  address := 0#8
  bufCap := 10240
  settleTime := 100
  statusTimeout := 1000
  timeUnit := 1

/-- The engine constructed with it. -/
def base : State := State.constructed cfg

/-- The same, connected. -/
def online : State := { base with conn := .connected }

/-- A value read from the state an outcome leaves. -/
def seen {α : Type} (f : State → α) : Host.Outcome State Fault Refusal → Option α
  | .next t => some (f t)
  | .fault _ => none
  | .refused _ => none

/-- The refusal of an outcome. -/
def stopped : Host.Outcome State Fault Refusal → Option Refusal
  | .next _ => none
  | .fault _ => none
  | .refused r => some r

/-- The outputs of an instruction run in a state without earlier outputs. -/
def outs (i : Instr) (s : State) : Option (List Output) := seen State.out (exec i s)

/-- FB1, F1: the open command for cabinet 5. -/
def fb1 : Bytes := [0xAA#8, 0x55#8, 0x03#8, 0x00#8, 0x50#8, 0x05#8, 0x14#8]
/-- FB2, F2: the status request. -/
def fb2 : Bytes := [0xAA#8, 0x55#8, 0x02#8, 0x00#8, 0x51#8, 0x1D#8]
/-- FR3: a status response. -/
def fr3 : Bytes := [0xAA#8, 0x55#8, 0x08#8, 0x00#8, 0x51#8, 0x01#8, 0x80#8, 0#8, 0#8, 0#8, 0#8, 0xE1#8]

/-- An open job for cabinets 5 and 7. -/
def job57 : OpenJob := { ticket := 1, ids := [5#8, 7#8], k := 0, opened := [], failed := [], phase := .ready }
/-- A status job. -/
def jobS : StatusJob := { ticket := 1, phase := .ready, deadline := none, respSeen := false }
/-- Connected, with an open job. -/
def opening (p : OpenPhase) : State :=
  { online with nextTicket := 2, active := some (.openJob { job57 with phase := p }) }
/-- Connected, with a status job. -/
def asking (p : StatusPhase) (d : Option Nat) (r : Bool) : State :=
  { online with nextTicket := 2, active := some (.statusJob { jobS with phase := p, deadline := d, respSeen := r }) }

/-! WellFormed smoke: each check refuses an ill-formed term -/

theorem test_wf_resp_length_255 :
    (Instr.statusResp 0 0 0 0 0 0 0 (List.replicate 247 0)).wellFormed cfg = true := by decide +kernel
theorem test_ill_resp_length_256 :
    (Instr.statusResp 0 0 0 0 0 0 0 (List.replicate 248 0)).wellFormed cfg = false := by decide +kernel
theorem test_ill_other_short : (Instr.inboundOther [0xAA#8, 0x55#8, 0xFF#8]).wellFormed cfg = false := by decide +kernel
theorem test_ill_other_hdr0 : (Instr.inboundOther [0xAB#8, 0x55#8, 0x00#8, 0x14#8]).wellFormed cfg = false := by decide +kernel
theorem test_ill_other_hdr1 : (Instr.inboundOther [0xAA#8, 0x54#8, 0x00#8, 0x14#8]).wellFormed cfg = false := by decide +kernel
theorem test_ill_other_length : (Instr.inboundOther [0xAA#8, 0x55#8, 0x01#8, 0x14#8]).wellFormed cfg = false := by decide +kernel
theorem test_ill_other_is_status : (Instr.inboundOther fr3).wellFormed cfg = false := by decide +kernel
theorem test_ill_decode_status_short : (Instr.decodeStatus [0#8, 0#8, 0#8]).wellFormed cfg = false := by decide +kernel
theorem test_ill_decode_status_length : (Instr.decodeStatus (fr3 ++ [0#8])).wellFormed cfg = false := by decide +kernel

/-! Decoding: words written out from the spec's encodings -/

-- R77: hdr0 hdr1 LENGTH=3 ADDRESS INSTR_OPEN id checksum (FB1)
theorem test_decode_open : decode cfg ⟨.outbound,
    [0b10101010#8, 0b01010101#8, 0b00000011#8, 0b00000000#8, 0b01010000#8, 0b00000101#8, 0b00010100#8]⟩ =
    .ok (.openFrame 5#8) := by decide +kernel
-- R78: hdr0 hdr1 LENGTH=2 ADDRESS INSTR_STATUS_REQ checksum (FB2)
theorem test_decode_status_req : decode cfg ⟨.outbound,
    [0b10101010#8, 0b01010101#8, 0b00000010#8, 0b00000000#8, 0b01010001#8, 0b00011101#8]⟩ = .ok .statusReq := by decide +kernel
-- R79: hdr0 hdr1 LENGTH=8 ADDRESS INSTR_STATUS_RESP s0..s5 checksum (FR3)
theorem test_decode_status_resp : decode cfg ⟨.inbound, fr3⟩ = .ok (.statusResp 0 0x01#8 0x80#8 0 0 0 0 []) := by decide +kernel
-- R80: LENGTH = 0, valid (FV8)
theorem test_decode_inbound_other : decode cfg ⟨.inbound, [0xAA#8, 0x55#8, 0x00#8, 0x14#8]⟩ =
    .ok (.inboundOther [0xAA#8, 0x55#8, 0x00#8, 0x14#8]) := by decide +kernel
-- R76: a tampered outbound frame is none (FV2)
theorem test_decode_open_tampered : decode cfg ⟨.outbound,
    [0xAA#8, 0x55#8, 0x03#8, 0x00#8, 0x50#8, 0x05#8, 0x15#8]⟩ = .error .badChecksum := by decide +kernel
-- R73: another address (FB7)
theorem test_decode_open_address : decode cfg ⟨.outbound,
    [0xAA#8, 0x55#8, 0x03#8, 0x07#8, 0x50#8, 0x05#8, 0x6E#8]⟩ = .error .foreignAddress := by decide +kernel
-- R83: a frame of neither outbound format (FB9)
theorem test_decode_not_outbound : decode cfg ⟨.outbound,
    [0xAA#8, 0x55#8, 0x04#8, 0x00#8, 0x50#8, 0x01#8, 0x02#8, 0x2A#8]⟩ = .error .notOutbound := by decide +kernel
-- R88, one record for each selector
theorem test_decode_connect : decodeEvent [0x01#8, 0x02#8, 0x70#8, 0x71#8, 0x80#8, 0x4B#8] =
    .ok (.connect [0x70#8, 0x71#8] 9600) := by decide +kernel
theorem test_decode_disconnect : decodeEvent [0x02#8] = .ok .disconnect := by decide +kernel
theorem test_decode_open_cabinets : decodeEvent [0x03#8, 0x02#8, 0x80#8, 0x04#8, 0x01#8] =
    .ok (.openCabinets [256, -1]) := by decide +kernel
theorem test_decode_get_status : decodeEvent [0x04#8, 0x01#8] = .ok (.getStatus true) := by decide +kernel
theorem test_decode_reset_status : decodeEvent [0x05#8] = .ok .resetStatus := by decide +kernel
theorem test_decode_connect_done : decodeEvent [0x10#8, 0x00#8] = .ok (.connectDone .ok) := by decide +kernel
theorem test_decode_tx_done : decodeEvent [0x11#8, 0x01#8, 0x01#8, 0xE1#8] = .ok (.txDone (.err [0xE1#8])) := by decide +kernel
theorem test_decode_rx : decodeEvent [0x12#8, 0x02#8, 0xAA#8, 0x55#8] = .ok (.rx [0xAA#8, 0x55#8]) := by decide +kernel
theorem test_decode_line_lost : decodeEvent [0x13#8] = .ok .lineLost := by decide +kernel
theorem test_decode_tick : decodeEvent [0x20#8, 0x64#8] = .ok (.tick 100) := by decide +kernel
theorem test_decode_unknown : decodeEvent [0x06#8] = .error (.unknownSelector 0x06#8) := by decide +kernel
theorem test_decode_empty : decodeEvent [] = .error .emptyRecord := by decide +kernel
theorem test_decode_truncated : decodeEvent [0x12#8, 0x02#8, 0xAA#8] = .error .truncatedOperand := by decide +kernel
theorem test_decode_bad_bool : decodeEvent [0x04#8, 0x02#8] = .error (.badBool 0x02#8) := by decide +kernel
theorem test_decode_bad_result : decodeEvent [0x11#8, 0x02#8] = .error (.badResult 0x02#8) := by decide +kernel
theorem test_decode_trailing : decodeEvent [0x02#8, 0x01#8] = .error .trailingBytes := by decide +kernel
-- the opcode-table word of an event row, and the step that runs it
theorem test_table_word_tx_done : decodeTableWord 8 0x11 = some (.txDone .ok) := by decide +kernel
theorem test_table_word_step : step (base.withFetchWord 8 0x13) = exec .lineLost base := by rfl
-- an internal operation has no encoding (R90)
theorem test_internal_no_encoding : encode cfg (.checksum fb1) = none := by decide +kernel

/-! Checksum Unit -/

-- ROUND(0x01) = 0x8C, ROUND(0xFF) = 0xF3
theorem test_round_odd : seen State.acc (exec .round { base with acc := 0x01#8 }) = some 0x8C#8 := by decide +kernel
theorem test_round_ff : seen State.acc (exec .round { base with acc := 0xFF#8 }) = some 0xF3#8 := by decide +kernel
theorem test_ck_init : seen State.acc (exec .ckInit { base with acc := 0xFF#8 }) = some 0#8 := by decide +kernel
-- CK3, CK8: 55 after AA, whose checksum is D1
theorem test_ck_byte_01 : seen State.acc (exec (.ckByte 0x01#8) base) = some 0x5E#8 := by decide +kernel
theorem test_ck_byte_chained : seen State.acc (exec (.ckByte 0x55#8) { base with acc := 0xD1#8 }) = some 0xED#8 := by decide +kernel
-- CK15, CK20
theorem test_checksum_123456789 : seen State.ret
    (exec (.checksum [0x31#8, 0x32#8, 0x33#8, 0x34#8, 0x35#8, 0x36#8, 0x37#8, 0x38#8, 0x39#8]) base) =
    some (.byte 0xA1#8) := by decide +kernel
theorem test_checksum_poly_07 : checksumFn 0x07#8 [0xAA#8, 0x55#8, 0x02#8] = 0x02#8 := by decide +kernel

/-! Frame Codec -/

-- FB7, FB11
theorem test_build_address : seen State.ret (exec (.build [0x05#8] 0x07#8 0x50#8) base) =
    some (.frame [0xAA#8, 0x55#8, 0x03#8, 0x07#8, 0x50#8, 0x05#8, 0x6E#8]) := by decide +kernel
theorem test_build_refused : stopped (exec (.build (List.replicate 254 0#8) 0#8 0x50#8) base) =
    some .buildRefused := by decide +kernel
-- FV3, FV7
theorem test_validate_tampered : seen State.ret
    (exec (.validate [0xAA#8, 0x55#8, 0x03#8, 0x00#8, 0x50#8, 0x04#8, 0x14#8]) base) = some (.bool false) := by decide +kernel
theorem test_validate_shapeless : seen State.ret (exec (.validate [0#8, 0#8]) base) = some (.bool true) := by decide +kernel
theorem test_hexdump : seen State.ret (exec (.hexdump [0xAA#8, 0x05#8, 0x0F#8]) base) =
    some (.text ['A', 'A', ' ', '0', '5', ' ', '0', 'F']) := by decide +kernel

/-! Frame Reassembler -/

-- RA18, RA12
theorem test_reassemble_resync : (reassemble ([0xAA#8] ++ fb2) base).2 = [(fb2, true)] := by decide +kernel
theorem test_reassemble_false_header : seen State.rxbuf (exec (.reassemble ([0xAA#8, 0x55#8, 0x05#8] ++ fb1)) base) =
    some [0x14#8] := by decide +kernel

/-! Status Decoder -/

-- SD3 (id 15 is bit 7 of byte 1), SD10
theorem test_decode_status_lane : ((decodeStatusFn cfg fr3).map fun d => (d[15]?, d[8]?)) =
    some (some (15#8, .available), some (8#8, .unavailable)) := by decide +kernel
theorem test_decode_status_short : seen State.ret (exec (.decodeStatus [0xAA#8, 0x55#8, 0x01#8, 0#8, 0x51#8]) base) =
    some (.statuses none) := by decide +kernel

/-! Wire instructions -/

-- FB1 in the send slot; another ID than the current one does nothing
theorem test_open_writes : outs (.openFrame 5#8) (opening .ready) = some [.txFrame fb1] := by decide +kernel
theorem test_open_other_id : outs (.openFrame 7#8) (opening .ready) = some [] := by decide +kernel
-- FB2
theorem test_status_req_writes : outs .statusReq (asking .ready none false) = some [.txFrame fb2] := by decide +kernel
-- CT12; an Awaiting job resolves
theorem test_status_resp_marks : seen (fun t => (t.mapGet 15#8, t.mapGet 14#8, t.mapGet 48#8))
    (exec (.statusResp 0 0x01#8 0x80#8 0 0 0 0 []) { online with now := 7 }) =
    some (some ⟨15#8, .available, 7⟩, some ⟨14#8, .unavailable, 7⟩, none) := by decide +kernel
theorem test_status_resp_resolves : seen State.active
    (exec (.statusResp 0 0x01#8 0x80#8 0 0 0 0 []) (asking .awaiting (some 5) false)) = some none := by decide +kernel
-- CT14, CT15
theorem test_other_unrecognized : outs (.inboundOther [0xAA#8, 0x55#8, 0x00#8, 0x14#8]) base =
    some [.frame [0xAA#8, 0x55#8, 0x00#8, 0x14#8] true,
      .diag (.unrecognizedFrame ['A', 'A', ' ', '5', '5', ' ', '0', '0', ' ', '1', '4'])] := by decide +kernel
theorem test_other_short_status : (outs (.inboundOther
    [0xAA#8, 0x55#8, 0x07#8, 0#8, 0x51#8, 0xFF#8, 0xFF#8, 0xFF#8, 0xFF#8, 0xFF#8, 0x82#8]) base).map (·.length) =
    some 2 := by decide +kernel

/-! Host calls -/

-- CT2, CT8
theorem test_connect_refused : outs (.connect [] 9600) online =
    some [.response 0 (.connectError .alreadyConnected)] := by decide +kernel
theorem test_connect_faulted : seen (fun t => (t.conn, t.connectTicket, t.out))
    (exec (.connect [0x70#8] 9600) { base with conn := .faulted }) =
    some (.connecting, some 0, [.openPort [0x70#8] 9600]) := by decide +kernel
-- CT1, CT3
theorem test_disconnect_idle : outs .disconnect base = some [.closePort, .response 0 .ok] := by decide +kernel
theorem test_disconnect_pending : outs .disconnect
    { base with conn := .connecting, connectTicket := some 0, nextTicket := 1 } =
    some [.response 0 (.connectError .aborted), .closePort, .response 1 .ok] := by decide +kernel
-- P1 event 3, P2 event 8
theorem test_open_cabinets_writes : outs (.openCabinets [5]) online = some [.txFrame fb1] := by decide +kernel
theorem test_open_cabinets_range : outs (.openCabinets [256]) online =
    some [.response 0 (.structuralInputError (.outOfRange 256))] := by decide +kernel
-- P4's cached status, P3 event 3
theorem test_get_status_cached : outs (.getStatus false) { online with cabMap := [(5, ⟨5#8, .opened, 0⟩)] } =
    some [.response 0 (.status true [⟨5#8, .opened, 0⟩] .notRequested)] := by decide +kernel
theorem test_get_status_fresh : outs (.getStatus true) online = some [.txFrame fb2] := by decide +kernel
-- CT10
theorem test_reset_status : seen (fun t => (t.cabMap, t.out))
    (exec .resetStatus { online with cabMap := [(5, ⟨5#8, .opened, 0⟩)] }) = some ([], [.response 0 .ok]) := by decide +kernel

/-! Transport and timer events -/

-- P1 event 2, CT4
theorem test_connect_done : outs (.connectDone .ok)
    { base with conn := .connecting, connectTicket := some 0, nextTicket := 1 } =
    some [.response 0 .connectedOk] := by decide +kernel
theorem test_connect_done_spurious : outs (.connectDone .ok) base =
    some [.diag (.spuriousTransportEvent .connectDone)] := by decide +kernel
-- P2 event 4, P5's write error over respSeen
theorem test_tx_done_open : seen (fun t => (t.mapGet 5#8, t.nextSendAt, t.out)) (exec (.txDone .ok) (opening .awaitTx)) =
    some (some ⟨5#8, .opened, 0⟩, 100, []) := by decide +kernel
theorem test_tx_done_error_first : outs (.txDone (.err [0xE3#8])) (asking .awaitTx none true) =
    some [.response 1 (.status true [] (.transportError [0xE3#8]))] := by decide +kernel
-- RA2, RA8
theorem test_rx_frame : (outs (.rx ([0#8] ++ fb1)) online) =
    some [.diag (.resyncDrop 0#8), .frame fb1 true, .diag (.unrecognizedInstruction 0x50#8)] := by decide +kernel
theorem test_rx_waits : seen State.rxbuf (exec (.rx [0#8, 0xAA#8, 0x55#8]) online) =
    some [0#8, 0xAA#8, 0x55#8] := by decide +kernel
-- CT6, CT7
theorem test_line_lost : seen (fun t => (t.conn, t.out)) (exec .lineLost online) =
    some (.faulted, [.diag .lineLost]) := by decide +kernel
theorem test_line_lost_ignored : seen (fun t => (t.conn, t.out)) (exec .lineLost base) = some (.disconnected, []) := by decide +kernel
-- CT9, P4 event TICK 1010
theorem test_tick_past : seen State.now (exec (.tick 30) { base with now := 50 }) = some 50 := by decide +kernel
theorem test_tick_deadline : outs (.tick 1010) (asking .awaiting (some 1010) false) =
    some [.diag .frameTimeout, .response 1 (.status true [] .timedOut)] := by decide +kernel

/-! Construction -/

theorem test_construct_collision : seen State.out (construct { cfg with instrOpen := 0x51#8 }) =
    some [.diag (.configCollision 0x51#8 0x51#8 0x51#8)] := by decide +kernel
theorem test_construct_refused : stopped (construct { cfg with bufCap := 258 }) = some .configRefused := by decide +kernel
theorem test_script : ScriptLine.hostStatusFresh.event = .getStatus true ∧
    frameShorthand cfg 0x50#8 [0x05#8] = some fb1 := by decide +kernel

/-! Witnesses: states and operands that meet the hypotheses of the statements, clause by clause -/

/-- R107 (e) has both kinds of polynomial. -/
theorem wit_ChecksumAlgebra : (0x8C#8 : Byte).getLsbD 7 = true ∧ (0x31#8 : Byte).getLsbD 7 = false := by decide

theorem wit_BuildLaysOutTheFrame :
    (List.replicate 253 0#8 : Bytes).length ≤ 253 ∧ 253 < (List.replicate 254 0#8 : Bytes).length := by decide +kernel

theorem wit_BuiltFrameValidates : (List.replicate 253 0#8 : Bytes).length ≤ 253 := by decide +kernel

theorem wit_ValidityByZeroChecksum : base.cfg.poly.getLsbD 7 = true ∧ fb1 ≠ [] := by decide

/-- A state with a small buffer cap, so that its boundary is at hand: 4 bytes buffered, cap 12. -/
def small : State := { base with cfg := { cfg with bufCap := 12 }, rxbuf := [0xAA#8, 0x55#8, 0x08#8, 0x00#8] }

theorem wit_OverflowClearsBuffer :
    small.cfg.bufCap < small.rxbuf.length + (List.replicate 9 0#8 : Bytes).length ∧
    small.rxbuf.length + (List.replicate 8 0#8 : Bytes).length ≤ small.cfg.bufCap := by decide

theorem wit_ReassembleCutsTheStream :
    small.rxbuf.length + (List.replicate 8 0#8 : Bytes).length ≤ small.cfg.bufCap := by decide

theorem wit_ResidueAndEmptyChunk : Residue small.cfg small.rxbuf ∧ small.rxbuf.length ≤ small.cfg.bufCap :=
  ⟨.inr (by decide), by decide⟩

/-- Two ways of splitting one stream, after a residue; and two ways of splitting one frame. -/
theorem wit_ChunkSplitIndependence :
    (Residue small.cfg small.rxbuf ∧
      NoOverflow [[0x51#8, 0x01#8], [0x80#8]] small ∧ NoOverflow [[0x51#8], [], [0x01#8, 0x80#8]] small ∧
      [[0x51#8, 0x01#8], [0x80#8]].flatten = [[0x51#8], [], [0x01#8, 0x80#8]].flatten) ∧
    (isFrame base.cfg fb1 = true ∧ base.rxbuf = [] ∧ NoOverflow [fb1.take 3, fb1.drop 3] base ∧
      [fb1.take 3, fb1.drop 3].flatten = fb1) := by
  refine ⟨⟨.inr (by decide), ⟨?_, ?_, trivial⟩, ⟨?_, ?_, ?_, trivial⟩, by decide⟩,
    by decide, rfl, ⟨?_, ?_, trivial⟩, by decide⟩ <;> decide +kernel

theorem wit_FrameBehindGarbageIsCut :
    base.cfg.hdr0 ≠ base.cfg.hdr1 ∧ isFrame base.cfg fb1 = true ∧ base.rxbuf = [] ∧
      ([0x55#8, 0xAA#8] : Bytes).length + fb1.length ≤ base.cfg.bufCap ∧
      ∀ i, i + 1 < ([0x55#8, 0xAA#8] : Bytes).length →
        ¬ (byteAt [0x55#8, 0xAA#8] i = base.cfg.hdr0 ∧ byteAt [0x55#8, 0xAA#8] (i + 1) = base.cfg.hdr1) := by
  refine ⟨by decide, by decide, rfl, by decide +kernel, fun i hi => ?_⟩
  obtain rfl : i = 0 := by simp at hi; omega
  decide

/-- LENGTH 7 and LENGTH 8; a status response and another instruction. -/
theorem wit_DecodeStatusUnpacksLanes :
    (Instr.decodeStatus [0xAA#8, 0x55#8, 7#8, 0, 0x51#8, 0, 0, 0, 0, 0, 0]).wellFormed base.cfg = true ∧
    frameLength [0xAA#8, 0x55#8, 7#8, 0, 0x51#8, 0, 0, 0, 0, 0, 0] < 8 ∧
    (Instr.decodeStatus [0xAA#8, 0x55#8, 8#8, 0, 0x50#8, 0, 0, 0, 0, 0, 0, 0]).wellFormed base.cfg = true ∧
    byteAt [0xAA#8, 0x55#8, 8#8, 0, 0x50#8, 0, 0, 0, 0, 0, 0, 0] 4 ≠ base.cfg.instrStatusResp ∧
    (Instr.decodeStatus fr3).wellFormed base.cfg = true ∧
    8 ≤ frameLength fr3 ∧ byteAt fr3 4 = base.cfg.instrStatusResp := by decide

/-- NOW at NEXT_SEND_AT. -/
theorem wit_OpenWritesItsFrame :
    (opening .ready).active = some (.openJob job57) ∧ job57.phase = .ready ∧ job57.ids[job57.k]? = some 5#8 ∧
      (opening .ready).nextSendAt ≤ (opening .ready).now ∧ (opening .ready).conn = .connected := by decide

/-- One unit before NEXT_SEND_AT, and at it. -/
theorem wit_OpenWaitsOrFailsNotConnected :
    ({ opening .ready with nextSendAt := 1 } : State).active = some (.openJob job57) ∧ job57.phase = .ready ∧
    job57.ids[job57.k]? = some 5#8 ∧
    ({ opening .ready with nextSendAt := 1 } : State).now < ({ opening .ready with nextSendAt := 1 } : State).nextSendAt ∧
    ({ opening .ready with conn := .faulted } : State).active = some (.openJob job57) ∧
    ({ opening .ready with conn := .faulted } : State).nextSendAt ≤ ({ opening .ready with conn := .faulted } : State).now ∧
    ({ opening .ready with conn := .faulted } : State).conn ≠ .connected := by decide

theorem wit_StatusReqSlot :
    (asking .ready none false).active = some (.statusJob jobS) ∧ jobS.phase = .ready ∧
    ({ asking .ready none false with nextSendAt := 1 } : State).now <
      ({ asking .ready none false with nextSendAt := 1 } : State).nextSendAt ∧
    (asking .ready none false).nextSendAt ≤ (asking .ready none false).now ∧
    ({ asking .ready none false with conn := .disconnected } : State).conn ≠ .connected ∧
    (asking .ready none false).conn = .connected := by decide

/-- The longest extra run. -/
theorem wit_StatusRespMergesAndResolves : (List.replicate 247 0#8 : Bytes).length ≤ 247 := by decide +kernel

theorem wit_InboundOtherIsDiscarded :
    (Instr.inboundOther [0xAA#8, 0x55#8, 0x00#8, 0x14#8]).wellFormed base.cfg = true := by decide +kernel

theorem wit_AddressAndExtraBytesDoNotMatter :
    ([] : Bytes).length ≤ 247 ∧ (List.replicate 247 0#8 : Bytes).length ≤ 247 := by decide +kernel

/-- All four states of the connection. -/
theorem wit_ConnectOpensThePortOrIsRefused :
    base.conn = .disconnected ∧ ({ base with conn := .faulted } : State).conn = .faulted ∧
    ({ base with conn := .connecting } : State).conn = .connecting ∧ online.conn = .connected := by decide

/-- With and without a pending connect. -/
theorem wit_DisconnectAlwaysSucceeds :
    (({ base with conn := .connecting, connectTicket := some 0 } : State).connectTicket.isSome ↔
      ({ base with conn := .connecting, connectTicket := some 0 } : State).conn = .connecting) ∧
    (online.connectTicket.isSome ↔ online.conn = .connecting) := by decide

/-- The first integers outside the range, on both sides, and the last ones inside. -/
theorem wit_OpenCabinetsValidatesThenQueues :
    (∀ x ∈ ([0, 255] : List Int), 0 ≤ x ∧ x ≤ 255) ∧ ¬ (0 ≤ (256 : Int) ∧ (256 : Int) ≤ 255) ∧
    ¬ (0 ≤ (-1 : Int) ∧ (-1 : Int) ≤ 255) ∧ ([0, 255] : List Int) ≠ [] := by decide

theorem wit_ConnectDoneAnswersTheCall :
    ({ base with conn := .connecting, connectTicket := some 0 } : State).conn = .connecting ∧
    ({ base with conn := .connecting, connectTicket := some 0 } : State).connectTicket = some 0 := by decide

theorem wit_TxDoneRecordsTheCabinet :
    (opening .awaitTx).active = some (.openJob { job57 with phase := .awaitTx }) ∧
    job57.ids[job57.k]? = some 5#8 := by decide

/-- With and without a response seen. -/
theorem wit_TxDoneArmsTheTimeout :
    (asking .awaitTx none true).active = some (.statusJob { jobS with phase := .awaitTx, respSeen := true }) ∧
    (asking .awaitTx none false).active = some (.statusJob { jobS with phase := .awaitTx, respSeen := false }) := by
  decide +kernel

/-- The constructed engine, connected, with any pending records, meets the invariants. -/
theorem online_inv (rs : List Bytes) : ({ online with inbox := rs } : State).Inv where
  cfg_valid := by simp [online, base, State.constructed, cfg, Cfg.valid]
  buf_le := by simp [online, base, State.constructed]
  residue := .inl (by simp [online, base, State.constructed])
  connect_iff := by simp [online, base, State.constructed]
  map_wf := rfl
  map_id := by simp [online, base, State.constructed]
  map_past := by simp [online, base, State.constructed]
  active_ok := by simp [online, base, State.constructed]
  queue_ok := by simp [online, base, State.constructed]
  queue_fresh := by simp [online, base, State.constructed]
  tickets_rise := by simp [online, base, State.constructed, State.jobs]
  tickets_lt := by simp [online, base, State.constructed, State.jobs]
  connect_ticket_lt := by simp [online, base, State.constructed]
  paced_write := by simp [online, base, State.constructed]
  quiescent := ⟨by simp [online, base, State.constructed], by simp [online, base, State.constructed],
    by simp [online, base, State.constructed]⟩

/-- An outstanding write for cabinet 5, with any settle time and any pending records, meets the invariants. -/
def writing (settle : Nat) (rs : List Bytes) : State :=
  { opening .awaitTx with cfg := { cfg with settleTime := settle }, inbox := rs }

theorem writing_inv (settle : Nat) (rs : List Bytes) : (writing settle rs).Inv where
  cfg_valid := by simp [writing, cfg, Cfg.valid]
  buf_le := by simp [writing, opening, online, base, State.constructed]
  residue := .inl (by simp [writing, opening, online, base, State.constructed])
  connect_iff := by simp [writing, opening, online, base, State.constructed]
  map_wf := rfl
  map_id := by simp [writing, opening, online, base, State.constructed]
  map_past := by simp [writing, opening, online, base, State.constructed]
  active_ok := by
    rintro _ ⟨⟩
    exact ⟨by simp [job57], by simp [job57], by simp [job57], by simp [job57, BatchSplit]⟩
  queue_ok := by simp [writing, opening, online, base, State.constructed]
  queue_fresh := by simp [writing, opening, online, base, State.constructed]
  tickets_rise := by simp [writing, opening, online, base, State.constructed, State.jobs]
  tickets_lt := by
    simp [writing, opening, online, base, State.constructed, State.jobs, Job.ticket, job57]
  connect_ticket_lt := by simp [writing, opening, online, base, State.constructed]
  paced_write := fun _ => Nat.le_refl _
  quiescent := ⟨by simp [writing, opening], by
    rintro _ ⟨⟩ h; simp [Job.isReady] at h, by rintro _ ⟨⟩ h; simp [Job.isReady] at h⟩

theorem wit_SpuriousCompletionsAreIgnored :
    (base.Quiescent ∧ base.writeOutstanding = false ∧ base.conn ≠ .connecting) ∧
    (writing 100 []).Inv ∧ Dutiful (.txDone .ok) (writing 100 []) ∧
    ∃ t, exec (.txDone .ok) (writing 100 []) = .next t :=
  ⟨⟨⟨fun _ => rfl, by simp [base, State.constructed], by simp [base, State.constructed]⟩, by decide, by decide⟩,
    writing_inv 100 [], rfl, _, rfl⟩

theorem wit_LineLostFaultsAConnectedEngine :
    online.Quiescent ∧ online.conn = .connected ∧ base.Quiescent ∧ base.conn ≠ .connected :=
  ⟨(online_inv []).quiescent, rfl,
    ⟨fun _ => rfl, by simp [base, State.constructed], by simp [base, State.constructed]⟩, by decide⟩

/-- The deadline reached exactly; one unit before it; no status job at all. -/
theorem wit_TickAdvancesTimeAndTimesOut :
    ((asking .awaiting (some 5) false).active = some (.statusJob { jobS with phase := .awaiting, deadline := some 5 }) ∧
      5 ≤ max (asking .awaiting (some 5) false).now 5) ∧
    (∀ (j : StatusJob) (d : Nat), (asking .awaiting (some 5) false).active = some (.statusJob j) →
      j.phase = .awaiting → j.deadline = some d → max (asking .awaiting (some 5) false).now 4 < d) ∧
    (∀ (j : StatusJob) (d : Nat), base.active = some (.statusJob j) →
      j.phase = .awaiting → j.deadline = some d → max base.now 5 < d) := by
  refine ⟨by decide, ?_, ?_⟩
  · rintro j d ⟨⟩ _ ⟨⟩
    decide
  · simp [base, State.constructed]

/-- The finished batch of job57. -/
def done57 : OpenJob :=
  { job57 with k := 2, opened := [{ id := 5#8, openedAt := 0 }], failed := [{ id := 7#8, error := .transport .notConnected }] }

theorem wit_AdvanceIsTheLoop :
    (base.active = none ∧ base.queue = []) ∧
    (({ base with queue := [.openJob job57] } : State).active = none ∧
      ({ base with queue := [.openJob job57] } : State).queue = .openJob job57 :: []) ∧
    ((opening .awaitTx).active = some (.openJob { job57 with phase := .awaitTx }) ∧
      (Job.openJob { job57 with phase := .awaitTx }).isReady = false) ∧
    ((opening .ready).active = some (.openJob job57) ∧ (Job.openJob job57).isReady = true) ∧
    job57.ids[job57.k]? = some 5#8 ∧
    ((asking .ready none false).active = some (.statusJob jobS) ∧ jobS.phase = .ready) := by decide

theorem wit_FinishedBatchIsAnswered :
    ({ online with active := some (.openJob done57) } : State).active = some (.openJob done57) ∧
    done57.phase = .ready ∧ done57.k = done57.ids.length := by decide

theorem wit_AdvanceRunsAsFarAsItCan :
    ((Instr.tick 1).isEvent = true ∧ ∃ t, exec (.tick 1) base = .next t) ∧ online.Quiescent :=
  ⟨⟨rfl, _, rfl⟩, (online_inv []).quiescent⟩

theorem wit_ConstructionMeetsTheInvariants : cfg.valid = true := by decide

theorem wit_EveryStepKeepsTheInvariants :
    (writing 100 [[0x11#8, 0x00#8]]).Inv ∧ ∃ t, step (writing 100 [[0x11#8, 0x00#8]]) = .next t ∧ t ≠ writing 100 [] :=
  ⟨writing_inv _ _, _, rfl, by decide +kernel⟩

theorem wit_NoEventStopsTheEngine :
    (Instr.lineLost).isEvent = true ∧ ∀ p a c, Instr.lineLost ≠ .build p a c := by simp [Instr.isEvent, Instr.port]

/-- A step that writes a frame; a step during which a write stays outstanding. -/
theorem wit_AtMostOneWriteOutstanding :
    (({ online with inbox := [[0x03#8, 0x01#8, 0x0A#8]] } : State).Inv ∧
      ∃ t, step { online with inbox := [[0x03#8, 0x01#8, 0x0A#8]] } = .next t ∧
        txFrames (emitted { online with inbox := [[0x03#8, 0x01#8, 0x0A#8]] } t) ≠ []) ∧
    ((writing 100 [[0x13#8]]).Inv ∧ (writing 100 [[0x13#8]]).writeOutstanding = true ∧
      (∀ r, (writing 100 [[0x13#8]]).pending ≠ some (.txDone r)) ∧ ∃ t, step (writing 100 [[0x13#8]]) = .next t) := by
  refine ⟨⟨online_inv _, _, rfl, by decide +kernel⟩, writing_inv _ _, rfl, fun r => ?_, _, rfl⟩
  have h : (writing 100 [[0x13#8]]).pending = some .lineLost := by decide +kernel
  rw [h]; simp

/-- With SETTLE_TIME = 0 the same step writes again; with SETTLE_TIME = 100 the tick that reaches it does. -/
theorem wit_SettleTimeBetweenWrites :
    ((writing 0 [[0x11#8, 0x00#8]]).Inv ∧ (writing 0 [[0x11#8, 0x00#8]]).writeOutstanding = true ∧
      (writing 0 [[0x11#8, 0x00#8]]).pending = some (.txDone .ok) ∧
      ∃ t, step (writing 0 [[0x11#8, 0x00#8]]) = .next t ∧
        txFrames (emitted (writing 0 [[0x11#8, 0x00#8]]) t) ≠ []) ∧
    ((writing 100 [[0x11#8, 0x00#8], [0x20#8, 0x64#8]]).Inv ∧
      (writing 100 [[0x11#8, 0x00#8], [0x20#8, 0x64#8]]).writeOutstanding = true ∧
      (writing 100 [[0x11#8, 0x00#8], [0x20#8, 0x64#8]]).pending = some (.txDone .ok) ∧
      ∃ t v, step (writing 100 [[0x11#8, 0x00#8], [0x20#8, 0x64#8]]) = .next t ∧ Steps t t ∧ step t = .next v ∧
        txFrames (emitted t v) ≠ []) :=
  ⟨⟨writing_inv _ _, rfl, by decide +kernel, _, rfl, by decide +kernel⟩,
    writing_inv _ _, rfl, by decide +kernel, _, _, rfl, .refl _, rfl, by decide +kernel⟩

theorem wit_OnlyTwoFrameFormatsAreWritten :
    ∃ t, exec (.openCabinets [5]) online = .next t ∧ fb1 ∈ txFrames (emitted online t) :=
  ⟨_, rfl, by decide +kernel⟩

theorem wit_QueuedCallsAreAnsweredOnceInOrder :
    ∃ t, step { online with inbox := [[0x03#8, 0x01#8, 0x0A#8]] } = .next t ∧ t.jobs ≠ [] :=
  ⟨_, rfl, by decide +kernel⟩

/-- The last TxDone of a batch; and a batch answered in the step of its own call. -/
theorem wit_BatchResponseListsEveryId :
    (({ base with inbox := [[0x03#8, 0x01#8, 0x0A#8]] } : State).Inv ∧
      ∃ t, step { base with inbox := [[0x03#8, 0x01#8, 0x0A#8]] } = .next t ∧
        .response 0 (.openResult [] [{ id := 5#8, error := .transport .notConnected }]) ∈
          emitted { base with inbox := [[0x03#8, 0x01#8, 0x0A#8]] } t) := by
  refine ⟨?_, _, rfl, by decide +kernel⟩
  have h := online_inv [[0x03#8, 0x01#8, 0x0A#8]]
  exact ⟨h.1, h.2, h.3, by simp [base, State.constructed], h.5, h.6, h.7, h.8, h.9, h.10, h.11, h.12, h.13, h.14,
    ⟨h.15.1, h.15.2, h.15.3⟩⟩

theorem wit_ConnFollowsTheTransitionTable : ∃ t, exec .lineLost online = .next t ∧ t.conn ≠ online.conn :=
  ⟨_, rfl, by decide +kernel⟩

/-- Each of the writers; and a present entry that an instruction other than the reset must keep. -/
theorem wit_MapChangesOnlyByItsThreeWriters :
    (∃ t, exec (.txDone .ok) (opening .awaitTx) = .next t ∧ t.cabMap ≠ (opening .awaitTx).cabMap) ∧
    (∃ t, exec (.rx fr3) online = .next t ∧ t.cabMap ≠ online.cabMap) ∧
    (∃ t, exec .resetStatus { online with cabMap := [(5, ⟨5#8, .opened, 0⟩)] } = .next t ∧
      t.cabMap ≠ ({ online with cabMap := [(5, ⟨5#8, .opened, 0⟩)] } : State).cabMap) ∧
    (Instr.lineLost ≠ .resetStatus ∧
      ({ online with cabMap := [(5, ⟨5#8, .opened, 0⟩)] } : State).mapGet 5#8 ≠ none) :=
  ⟨⟨_, rfl, by decide +kernel⟩, ⟨_, rfl, by decide +kernel⟩, ⟨_, rfl, by decide +kernel⟩, by decide⟩

theorem wit_CfgFixedTimeByTickBufferByReassembler :
    (∃ t, exec (.tick 3) base = .next t ∧ t.now ≠ base.now) ∧
    (∃ t, exec (.rx [0#8]) base = .next t ∧ t.rxbuf ≠ base.rxbuf) :=
  ⟨⟨_, rfl, by decide +kernel⟩, ⟨_, rfl, by decide +kernel⟩⟩

theorem wit_MapReadAfterWriteAndSnapshot :
    Memory.wf [(5, ⟨5#8, .opened, 0⟩), (255, ⟨255#8, .available, 1⟩)] = true ∧ 255 < 256 ∧
    ∀ e ∈ ([(5, ⟨5#8, .opened, 0⟩), (255, ⟨255#8, .available, 1⟩)] : CabinetMap), e.2.id.toNat = e.1 := by decide

/-- The deadline reached exactly, and the smallest buffer that holds the frame. -/
theorem wit_ResponseAndDeadlineRace :
    let s : State := { asking .awaiting (some 5) false with cfg := { cfg with bufCap := 12 } };
    s.active = some (.statusJob { jobS with phase := .awaiting, deadline := some 5 }) ∧ 5 ≤ 5 ∧ s.queue = [] ∧
      s.rxbuf = [] ∧ 12 ≤ s.cfg.bufCap := by decide

theorem wit_TickStartsThePacedWrite :
    let s : State := { opening .ready with nextSendAt := 100 };
    s.active = some (.openJob job57) ∧ job57.phase = .ready ∧ job57.ids[job57.k]? = some 5#8 ∧ s.conn = .connected ∧
      s.nextSendAt ≤ 100 := by decide

theorem wit_DecodeInvertsEncode :
    (Instr.openFrame 255#8).wellFormed cfg = true ∧ ∃ w, encode cfg (.openFrame 255#8) = some w := ⟨rfl, _, rfl⟩

theorem wit_FramesHaveOneMeaning :
    Port.inbound ≠ .event ∧ decode cfg ⟨.inbound, fr3⟩ = .ok (.statusResp 0 0x01#8 0x80#8 0 0 0 0 []) ∧
    Port.outbound ≠ .event ∧ decode cfg ⟨.outbound, fb1⟩ = .ok (.openFrame 5#8) := by decide +kernel

theorem wit_DecodedIsWellFormedAndNeverInternal :
    decode cfg ⟨.event, [0x02#8]⟩ = .ok .disconnect ∧ isFrame cfg fr3 = true := by decide

/-- The bytes next to the listed selectors. -/
theorem wit_SelectorsAreAClosedTable :
    ∀ b ∈ [0x00#8, 0x06#8, 0x0F#8, 0x14#8, 0x1F#8, 0x21#8, 0xFF#8],
      b ∉ [0x01#8, 0x02#8, 0x03#8, 0x04#8, 0x05#8, 0x10#8, 0x11#8, 0x12#8, 0x13#8, 0x20#8] := by decide

theorem wit_StepRunsTheDecodedEvent :
    base.inbox = [] ∧
    (({ base with inbox := [[0x02#8]] } : State).inbox = [0x02#8] :: [] ∧ decodeEvent [0x02#8] = .ok .disconnect) ∧
    (({ base with inbox := [[0x06#8]] } : State).inbox = [0x06#8] :: [] ∧
      decodeEvent [0x06#8] = .error (.unknownSelector 0x06#8)) ∧
    (31 < 32 ∧ decodeTableWord 31 0x02 = some .disconnect) := by decide

/-- The boundary values of each constraint. -/
theorem wit_ConstructionOrRefusal :
    (let c : Cfg := { cfg with bufCap := 259, statusTimeout := 1, instrOpen := 0x51#8 };
      259 ≤ c.bufCap ∧ (c.instrOpen = 0x50#8 ∨ c.instrOpen = 0x51#8) ∧ 1 ≤ c.statusTimeout) ∧
    (let c : Cfg := { cfg with bufCap := 258 };
      ¬ (259 ≤ c.bufCap ∧ (c.instrOpen = 0x50#8 ∨ c.instrOpen = 0x51#8) ∧ 1 ≤ c.statusTimeout)) ∧
    (let c : Cfg := { cfg with instrOpen := 0x52#8 };
      ¬ (259 ≤ c.bufCap ∧ (c.instrOpen = 0x50#8 ∨ c.instrOpen = 0x51#8) ∧ 1 ≤ c.statusTimeout)) ∧
    (let c : Cfg := { cfg with statusTimeout := 0 };
      ¬ (259 ≤ c.bufCap ∧ (c.instrOpen = 0x50#8 ∨ c.instrOpen = 0x51#8) ∧ 1 ≤ c.statusTimeout)) := by decide

end Sys2Proof.Tests
end

section
/-! PROOFS. The whole-machine frame (R14, R27, R33, R39) and the step relation's four cases (R15, R61, R261). -/

namespace Sys2Proof.Machine

open Sys2Proof

/-! The frame that every operation but TICK's and the reassembler's keeps -/

/-- CFG, NOW and RXBUF are as before, and outputs are only appended. -/
structure KeepsFrame (s t : State) : Prop where
  cfg : t.cfg = s.cfg
  now : t.now = s.now
  rxbuf : t.rxbuf = s.rxbuf
  out : s.out <+: t.out

namespace KeepsFrame

variable {s t u : State}

theorem refl (s : State) : KeepsFrame s s := ⟨rfl, rfl, rfl, List.prefix_rfl⟩

theorem trans (h : KeepsFrame s t) (h' : KeepsFrame t u) : KeepsFrame s u :=
  ⟨h'.cfg.trans h.cfg, h'.now.trans h.now, h'.rxbuf.trans h.rxbuf, h.out.trans h'.out⟩

/-- An update of other fields, as most of the state operations are. -/
theorem silent (h : KeepsFrame s t) (hcfg : u.cfg = t.cfg) (hnow : u.now = t.now) (hbuf : u.rxbuf = t.rxbuf)
    (hout : u.out = t.out) : KeepsFrame s u :=
  h.trans ⟨hcfg, hnow, hbuf, hout ▸ List.prefix_rfl⟩

theorem emit (h : KeepsFrame s t) (o : Output) : KeepsFrame s (t.emit o) :=
  h.trans ⟨rfl, rfl, rfl, List.prefix_append _ _⟩

theorem signal (h : KeepsFrame s t) (d : Diag) : KeepsFrame s (t.signal d) := h.emit _

theorem respond (h : KeepsFrame s t) (ticket : Nat) (v : ResponseValue) : KeepsFrame s (t.respond ticket v) :=
  h.emit _

theorem setActive (h : KeepsFrame s t) (j : Option Job) : KeepsFrame s (t.setActive j) := h.silent rfl rfl rfl rfl

theorem setConn (h : KeepsFrame s t) (c : ConnState) : KeepsFrame s (t.setConn c) := h.silent rfl rfl rfl rfl

theorem setConnectTicket (h : KeepsFrame s t) (ticket : Option Nat) : KeepsFrame s (t.setConnectTicket ticket) :=
  h.silent rfl rfl rfl rfl

theorem takeTicket (h : KeepsFrame s t) : KeepsFrame s t.takeTicket := h.silent rfl rfl rfl rfl

theorem enqueue (h : KeepsFrame s t) (j : Job) : KeepsFrame s (t.enqueue j) := h.silent rfl rfl rfl rfl

theorem mapMark (h : KeepsFrame s t) (id : Byte) (st : CabState) : KeepsFrame s (t.mapMark id st) :=
  h.silent rfl rfl rfl rfl

theorem mapClear (h : KeepsFrame s t) : KeepsFrame s t.mapClear := h.silent rfl rfl rfl rfl

theorem setAcc (h : KeepsFrame s t) (a : Byte) : KeepsFrame s (t.setAcc a) := h.silent rfl rfl rfl rfl

theorem setRet (h : KeepsFrame s t) (r : Returned) : KeepsFrame s (t.setRet r) := h.silent rfl rfl rfl rfl

theorem settle (h : KeepsFrame s t) : KeepsFrame s t.settle := h.silent rfl rfl rfl rfl

theorem runChecksum (h : KeepsFrame s t) (bs : Bytes) : KeepsFrame s (t.runChecksum bs) := h.setAcc _

theorem runValidate (h : KeepsFrame s t) (f : Bytes) : KeepsFrame s (t.runValidate f) :=
  h.silent (by simp) (by simp) (by simp) (by simp)

theorem resolve (h : KeepsFrame s t) (j : StatusJob) (f : Freshness) : KeepsFrame s (resolve j f t) :=
  (h.respond _ _).setActive _

theorem answerConnect (h : KeepsFrame s t) (v : ResponseValue) : KeepsFrame s (t.answerConnect v) := by
  unfold State.answerConnect
  split
  · exact h
  · exact (h.respond _ v).setConnectTicket none

theorem writeFrame (h : KeepsFrame s t) (p : Bytes) (i : Byte) : KeepsFrame s (t.writeFrame p i) := by
  unfold State.writeFrame
  split
  · exact h
  · exact (h.runChecksum _).emit _

/-- Advance() keeps the frame (R196). -/
theorem advance (h : KeepsFrame s t) : KeepsFrame s (advance t) := by
  obtain ⟨n, os, heq⟩ := advance_frame t
  rw [heq]
  exact h.trans ⟨rfl, rfl, rfl, List.prefix_append _ _⟩

/-- The frame of the state in an outcome. -/
theorem of_next (h : KeepsFrame s u) (heq : (.next u : Host.Outcome State Fault Refusal) = .next t) :
    KeepsFrame s t := Host.Outcome.next.inj heq ▸ h

end KeepsFrame

/-! Send slots (R202, R203, R209) -/

theorem sendOpen_keepsFrame (j : OpenJob) (id : Byte) (s : State) : KeepsFrame s (sendOpen j id s).1 := by
  unfold sendOpen
  split
  · exact .refl s
  · split
    · exact ((KeepsFrame.refl s).setActive _).settle
    · exact ((KeepsFrame.refl s).writeFrame _ _).setActive _

theorem sendStatusReq_keepsFrame (j : StatusJob) (s : State) : KeepsFrame s (sendStatusReq j s).1 := by
  unfold sendStatusReq
  split
  · exact .refl s
  · split
    · exact (KeepsFrame.refl s).settle.resolve _ _
    · exact ((KeepsFrame.refl s).writeFrame _ _).setActive _

/-! Inbound frames (R211, R212) -/

theorem noteResponse_keepsFrame (s : State) : KeepsFrame s (noteResponse s) := by
  have h := noteResponse_outcome s
  generalize noteResponse s = t at h
  cases h with
  | fresh => exact ⟨rfl, rfl, rfl, List.prefix_append _ _⟩
  | seen => exact (KeepsFrame.refl s).setActive _
  | none => exact .refl s

theorem merge_keepsFrame (d : List (Byte × CabState)) (s : State) : KeepsFrame s (merge d s) := by
  obtain ⟨m, -, heq⟩ := merge_eq d s
  rw [heq]
  have marked : KeepsFrame s { s with cabMap := m } := (KeepsFrame.refl s).silent rfl rfl rfl rfl
  exact marked.trans (noteResponse_keepsFrame _)

theorem onFrame_keepsFrame (f : Bytes) (valid : Bool) (s : State) : KeepsFrame s (onFrame f valid s) := by
  rcases onFrame_cases f valid s with heq | ⟨-, -, -, d, heq⟩
  · rw [heq]
    exact ⟨rfl, rfl, rfl, List.prefix_append _ _⟩
  · rw [heq]
    exact ((KeepsFrame.refl s).emit _).trans (merge_keepsFrame d _)

theorem onFrames_keepsFrame (fs : List (Bytes × Bool)) (s : State) : KeepsFrame s (onFrames fs s) := by
  induction fs generalizing s with
  | nil => exact .refl s
  | cons p fs ih => exact (onFrame_keepsFrame p.1 p.2 s).trans (ih _)

theorem receiveFrame_keepsFrame (f : Bytes) (s : State) : KeepsFrame s (receiveFrame f s) :=
  ((KeepsFrame.refl s).runValidate f).trans (onFrame_keepsFrame _ _ _)

/-! Host calls (R190 to R216) -/

theorem onConnect_keepsFrame (path : OpaqueValue) (baudRate ticket : Nat) (s : State) :
    KeepsFrame s (onConnect path baudRate ticket s) := by
  unfold onConnect
  split
  · exact (((KeepsFrame.refl s).setConn _).setConnectTicket _).emit _
  · exact (KeepsFrame.refl s).respond _ _

theorem onDisconnect_keepsFrame (ticket : Nat) (s : State) : KeepsFrame s (onDisconnect ticket s) := by
  have answered : KeepsFrame s (if s.conn = .connecting then s.answerConnect (.connectError .aborted) else s) := by
    split
    · exact (KeepsFrame.refl s).answerConnect _
    · exact .refl s
  exact ((answered.setConn _).emit _).respond _ _

theorem onOpenCabinets_keepsFrame (ids : List Int) (ticket : Nat) (s : State) :
    KeepsFrame s (onOpenCabinets ids ticket s) := by
  unfold onOpenCabinets
  split
  · exact (KeepsFrame.refl s).respond _ _
  · exact (KeepsFrame.refl s).enqueue _

theorem onGetStatus_keepsFrame (requestFresh : Bool) (ticket : Nat) (s : State) :
    KeepsFrame s (onGetStatus requestFresh ticket s) := by
  unfold onGetStatus
  split
  · exact (KeepsFrame.refl s).enqueue _
  · exact (KeepsFrame.refl s).respond _ _

theorem onResetStatus_keepsFrame (ticket : Nat) (s : State) : KeepsFrame s (onResetStatus ticket s) :=
  (KeepsFrame.refl s).mapClear.respond _ _

/-- A host call keeps the frame when its operation does: the ticket before it and Advance() after it keep it. -/
theorem hostCall_keepsFrame {op : State → State} (hop : ∀ u, KeepsFrame u (op u)) (s : State) :
    KeepsFrame s (advance (op s.takeTicket)) :=
  ((KeepsFrame.refl s).takeTicket.trans (hop s.takeTicket)).advance

/-! Transport and timer events -/

theorem onConnectDone_keepsFrame (r : TransportResult) (s : State) : KeepsFrame s (onConnectDone r s) := by
  unfold onConnectDone
  split
  · cases r with
    | ok => exact ((KeepsFrame.refl s).setConn _).answerConnect _
    | err e => exact ((KeepsFrame.refl s).setConn _).answerConnect _
  · exact (KeepsFrame.refl s).signal _

theorem openTxDone_keepsFrame (j : OpenJob) (id : Byte) (r : TransportResult) (s : State) :
    KeepsFrame s (openTxDone j id r s) := by
  cases r with
  | ok => exact (((KeepsFrame.refl s).mapMark _ _).setActive _).settle
  | err e => exact ((KeepsFrame.refl s).setActive _).settle

theorem statusTxDone_keepsFrame (j : StatusJob) (r : TransportResult) (s : State) :
    KeepsFrame s (statusTxDone j r s) := by
  have settled : KeepsFrame s s.settle := (KeepsFrame.refl s).settle
  cases r with
  | err e => exact settled.resolve _ _
  | ok =>
    unfold statusTxDone
    dsimp only
    split
    · exact settled.resolve _ _
    · exact settled.setActive _

theorem onTxDone_keepsFrame (r : TransportResult) (s : State) : KeepsFrame s (onTxDone r s) := by
  have spurious := (KeepsFrame.refl s).signal (.spuriousTransportEvent .txDone)
  unfold onTxDone
  split
  · split
    · exact openTxDone_keepsFrame _ _ r s
    · exact spurious
  · split
    · exact statusTxDone_keepsFrame _ r s
    · exact spurious
  · exact spurious

theorem onLineLost_keepsFrame (s : State) : KeepsFrame s (onLineLost s) := by
  unfold onLineLost
  split
  · exact ((KeepsFrame.refl s).setConn _).signal _
  · exact .refl s

theorem checkTimeout_keepsFrame (s : State) : KeepsFrame s (checkTimeout s) := by
  unfold checkTimeout
  split
  · split
    · exact ((KeepsFrame.refl s).signal _).resolve _ _
    · exact .refl s
  · exact .refl s

/-! Every instruction -/

theorem execOpenFrame_keepsFrame {id : Byte} {s t : State} (h : execOpenFrame id s = .next t) : KeepsFrame s t := by
  refine KeepsFrame.of_next ?_ h
  split
  · split
    · exact sendOpen_keepsFrame _ id s
    · exact .refl s
  · exact .refl s

theorem execStatusReq_keepsFrame {s t : State} (h : execStatusReq s = .next t) : KeepsFrame s t := by
  refine KeepsFrame.of_next ?_ h
  split
  · split
    · exact sendStatusReq_keepsFrame _ s
    · exact .refl s
  · exact .refl s

theorem execBuild_keepsFrame {payload : Bytes} {address instruction : Byte} {s t : State}
    (h : execBuild payload address instruction s = .next t) : KeepsFrame s t := by
  unfold execBuild at h
  split at h
  · cases h
  · exact .of_next (((KeepsFrame.refl s).runChecksum _).setRet _) h

/-- The frame of every instruction: TICK keeps it once its time is set, RX and REASSEMBLE once the chunk is
reassembled, every other instruction from the start. -/
theorem exec_keepsFrame {i : Instr} {s t : State} (h : exec i s = .next t) :
    KeepsFrame s t ∨
    (∃ n, i = .tick n ∧ KeepsFrame (s.advanceTime n) t) ∨
    ∃ chunk, (i = .rx chunk ∨ i = .reassemble chunk) ∧ KeepsFrame (reassemble chunk s).1 t := by
  cases i with
  | openFrame id => exact .inl (execOpenFrame_keepsFrame h)
  | statusReq => exact .inl (execStatusReq_keepsFrame h)
  | statusResp => exact .inl (.of_next (receiveFrame_keepsFrame _ s) h)
  | inboundOther f => exact .inl (.of_next (receiveFrame_keepsFrame f s) h)
  | connect path baud => exact .inl (.of_next (hostCall_keepsFrame (onConnect_keepsFrame path baud _) s) h)
  | disconnect => exact .inl (.of_next (hostCall_keepsFrame (onDisconnect_keepsFrame _) s) h)
  | openCabinets ids => exact .inl (.of_next (hostCall_keepsFrame (onOpenCabinets_keepsFrame ids _) s) h)
  | getStatus fresh => exact .inl (.of_next (hostCall_keepsFrame (onGetStatus_keepsFrame fresh _) s) h)
  | resetStatus => exact .inl (.of_next (hostCall_keepsFrame (onResetStatus_keepsFrame _) s) h)
  | connectDone r => exact .inl (.of_next (onConnectDone_keepsFrame r s).advance h)
  | txDone r => exact .inl (.of_next (onTxDone_keepsFrame r s).advance h)
  | rx chunk => exact .inr (.inr ⟨chunk, .inl rfl, .of_next (onFrames_keepsFrame _ _).advance h⟩)
  | lineLost => exact .inl (.of_next (onLineLost_keepsFrame s).advance h)
  | tick n => exact .inr (.inl ⟨n, rfl, .of_next (checkTimeout_keepsFrame _).advance h⟩)
  | round => exact .inl (.of_next ((KeepsFrame.refl s).setAcc _) h)
  | ckInit => exact .inl (.of_next ((KeepsFrame.refl s).setAcc _) h)
  | ckByte b => exact .inl (.of_next ((KeepsFrame.refl s).setAcc _) h)
  | checksum bs => exact .inl (.of_next (((KeepsFrame.refl s).runChecksum bs).setRet _) h)
  | build => exact .inl (execBuild_keepsFrame h)
  | validate f => exact .inl (.of_next (((KeepsFrame.refl s).runValidate f).setRet _) h)
  | hexdump bs => exact .inl (.of_next ((KeepsFrame.refl s).setRet _) h)
  | reassemble chunk => exact .inr (.inr ⟨chunk, .inr rfl, .of_next ((KeepsFrame.refl _).setRet _) h⟩)
  | decodeStatus f => exact .inl (.of_next ((KeepsFrame.refl s).setRet _) h)

/-- The reassembler leaves CFG and NOW, and only appends outputs (R141, R142). -/
theorem reassemble_frame (chunk : Bytes) (s : State) :
    (reassemble chunk s).1.cfg = s.cfg ∧ (reassemble chunk s).1.now = s.now ∧
      s.out <+: (reassemble chunk s).1.out := by
  rcases reassemble_cases chunk s with ⟨-, heq⟩ | ⟨-, drops, fs, rest, -, heq⟩
  · rw [heq]
    exact ⟨rfl, rfl, List.prefix_append _ _⟩
  · rw [heq]
    exact ⟨rfl, rfl, List.prefix_append _ _⟩

/-- Settles O48: the three frames of `exec_keepsFrame`, with what setting the time and reassembling change before
them. -/
theorem cfgFixedTimeByTickBufferByReassembler : Obligations.CfgFixedTimeByTickBufferByReassembler := by
  unfold Obligations.CfgFixedTimeByTickBufferByReassembler
  intro i s t h
  rcases exec_keepsFrame h with hk | ⟨n, rfl, hk⟩ | ⟨chunk, hi, hk⟩
  · exact ⟨hk.cfg, hk.now.ge, fun hne => absurd hk.now hne, fun hne => absurd hk.rxbuf hne, hk.out⟩
  · have hnow : t.now = max s.now n := by simpa using hk.now
    refine ⟨by simpa using hk.cfg, by omega, fun hne => ?_, fun hne => absurd (by simpa using hk.rxbuf) hne,
      by simpa using hk.out⟩
    rw [show t.now = n by omega]
  · obtain ⟨hcfg, hnow, hout⟩ := reassemble_frame chunk s
    have hnow' := hk.now.trans hnow
    exact ⟨hk.cfg.trans hcfg, hnow'.ge, fun hne => absurd hnow' hne, fun _ => ⟨chunk, hi⟩, hout.trans hk.out⟩

/-! One step (R15, R61, R261) -/

theorem step_of_idle {s : State} (h : s.inbox = []) : step s = .next s := by
  simp [step, fetch, h]

theorem step_of_event {s : State} {r : Bytes} {rest : List Bytes} {i : Instr} (h : s.inbox = r :: rest)
    (hd : decodeEvent r = .ok i) : step s = exec i { s with inbox := rest } := by
  simp [step, fetch, h, hd]

theorem step_of_undecodable {s : State} {r : Bytes} {rest : List Bytes} {e : DecodeError} (h : s.inbox = r :: rest)
    (hd : decodeEvent r = .error e) : step s = .refused (.undecodable e) := by
  simp [step, fetch, h, hd]

/-- A pending record that decodes is run on the state it was put before. -/
theorem step_withPending {s : State} {r : Bytes} {i : Instr} (hd : decodeEvent r = .ok i) :
    step (withPending s r) = exec i s :=
  step_of_event rfl hd

/-- What the table decoder reads from an event row's word is what the word's record decodes to. -/
theorem decodeEvent_wordRecord {nbits w : Nat} {i : Instr} (hn : nbits < 32) (h : decodeTableWord nbits w = some i) :
    decodeEvent (wordRecord nbits w) = .ok i := by
  simp only [decodeTableWord, isEventWord, hn, decide_true, if_true] at h
  cases hd : decodeEvent (wordRecord nbits w) with
  | ok i' => simpa [hd, Except.toOption] using h
  | error e => simp [hd, Except.toOption] at h

/-- An event row's word is put as its record. -/
theorem withFetchWord_of_lt {nbits : Nat} (w : Nat) (s : State) (hn : nbits < 32) :
    s.withFetchWord nbits w = withPending s (wordRecord nbits w) := by
  simp [State.withFetchWord, isEventWord, hn]

/-- Settles O57: the cases of `step`, and the record of an event row's word as the pending one. -/
theorem stepRunsTheDecodedEvent : Obligations.StepRunsTheDecodedEvent := by
  unfold Obligations.StepRunsTheDecodedEvent
  refine ⟨fun _ => step_of_idle, fun _ _ _ _ => step_of_event, fun _ _ _ _ => step_of_undecodable, ?_⟩
  intro s nbits w i hn hw
  rw [withFetchWord_of_lt w s hn]
  exact step_withPending (decodeEvent_wordRecord hn hw)

end Sys2Proof.Machine
end

section
/-! PROOFS. The state invariants (R9, R26 to R34, R44, R196, R198) in parts, each a predicate of the registers it speaks
of; that every operation keeps the parts and Advance() ends quiescent; construction (R43, R270, R271). -/

namespace Sys2Proof

/-! The constraints of CFG and its collision flag -/

/-- The constraints, as a proposition (R9). -/
theorem Cfg.valid_iff (c : Cfg) :
    c.valid = true ↔ 259 ≤ c.bufCap ∧ (c.instrOpen = 0x50#8 ∨ c.instrOpen = 0x51#8) ∧ 1 ≤ c.statusTimeout := by
  simp [Cfg.valid, and_assoc]

/-- A collision of the instruction codes, as a proposition (R37). -/
theorem Cfg.collision_iff (c : Cfg) :
    c.collision = true ↔ c.instrOpen = c.instrStatusReq ∨ c.instrOpen = c.instrStatusResp := by
  simp [Cfg.collision]

/-- The two codes of INSTR_OPEN (R9, D3). -/
theorem Config.cfg_instrOpen : Config.cfg.instrOpen = 0x50#8 ∨ Config.cfg.instrOpen = 0x51#8 := by
  unfold Config.cfg
  cases Config.openIs51 <;> simp

/-- The OPEN parameters are free within the constraints only. -/
theorem Config.cfg_valid : Config.cfg.valid = true :=
  (Cfg.valid_iff _).2 ⟨Nat.le_add_right _ _, Config.cfg_instrOpen, Nat.le_add_right _ _⟩

end Sys2Proof

namespace Sys2Proof.Machine

open Sys2Proof

/-! The parts of the invariant -/

/-- CFG and RXBUF (R9; I1 and I2 of R44). -/
structure BufferOk (c : Cfg) (buf : Bytes) : Prop where
  cfg_valid : c.valid = true
  buf_le : buf.length ≤ c.bufCap
  residue : Residue c buf

/-- The pending `connect` call (R34; I5 of R44). -/
structure ConnectOk (conn : ConnState) (pending : Option Nat) (nextTicket : Nat) : Prop where
  connect_iff : pending.isSome ↔ conn = .connecting
  ticket_lt : ∀ t, pending = some t → t < nextTicket

/-- MAP at time `now` (R26; I6 of R44). -/
structure MapOk (m : CabinetMap) (now : Nat) : Prop where
  wf : Memory.wf m = true
  id : ∀ e ∈ m, e.2.id.toNat = e.1
  past : ∀ e ∈ m, e.2.lastUpdatedAt ≤ now

/-- The active job and the queue (R28 to R34, R198; I7 of R44). -/
structure JobsOk (active : Option Job) (queue : List Job) (now nextTicket nextSendAt : Nat) : Prop where
  active_ok : ∀ j, active = some j → j.Ok now
  paced : ∀ j, active = some j → j.isAwaitTx = true → nextSendAt ≤ now
  queue_ok : ∀ j ∈ queue, j.Ok now
  queue_fresh : ∀ j ∈ queue, j.Fresh
  tickets_rise : ((active.toList ++ queue).map Job.ticket).Pairwise (· < ·)
  tickets_lt : ∀ j ∈ active.toList ++ queue, j.ticket < nextTicket

/-- The invariant without quiescence: what holds inside an event, before its Advance(), as well. -/
structure State.Sound (s : State) : Prop where
  buffer : BufferOk s.cfg s.rxbuf
  connect : ConnectOk s.conn s.connectTicket s.nextTicket
  map : MapOk s.cabMap s.now
  jobs : JobsOk s.active s.queue s.now s.nextTicket s.nextSendAt

/-- A write is outstanding exactly when there is an active job in AwaitTx. -/
theorem State.writeOutstanding_iff (s : State) :
    s.writeOutstanding = true ↔ ∃ j, s.active = some j ∧ j.isAwaitTx = true := by
  unfold State.writeOutstanding
  cases s.active <;> simp

/-- The invariant is its parts and quiescence. -/
theorem State.inv_iff (s : State) : s.Inv ↔ s.Sound ∧ s.Quiescent := by
  constructor
  · intro h
    have paced (j : Job) (ha : s.active = some j) (hw : j.isAwaitTx = true) : s.nextSendAt ≤ s.now :=
      h.paced_write (s.writeOutstanding_iff.2 ⟨j, ha, hw⟩)
    exact ⟨⟨⟨h.cfg_valid, h.buf_le, h.residue⟩, ⟨h.connect_iff, h.connect_ticket_lt⟩,
      ⟨h.map_wf, h.map_id, h.map_past⟩,
      ⟨h.active_ok, paced, h.queue_ok, h.queue_fresh, h.tickets_rise, h.tickets_lt⟩⟩, h.quiescent⟩
  · rintro ⟨⟨hb, hc, hm, hj⟩, hq⟩
    have paced (hw : s.writeOutstanding = true) : s.nextSendAt ≤ s.now :=
      have ⟨j, ha, hj'⟩ := s.writeOutstanding_iff.1 hw
      hj.paced j ha hj'
    exact ⟨hb.cfg_valid, hb.buf_le, hb.residue, hc.connect_iff, hm.wf, hm.id, hm.past, hj.active_ok, hj.queue_ok,
      hj.queue_fresh, hj.tickets_rise, hj.tickets_lt, hc.ticket_lt, paced, hq⟩

/-! The buffer and the pending call -/

namespace BufferOk

variable {c : Cfg} {buf rest : Bytes}

theorem nil (h : c.valid = true) : BufferOk c [] := ⟨h, Nat.zero_le _, .inl (by simp)⟩

/-- What `Cuts` leaves of bytes within the cap (R151). -/
theorem cuts {drops : List Byte} {fs : List Bytes} (hv : c.valid = true) (hl : buf.length ≤ c.bufCap)
    (h : Cuts c buf drops fs rest) : BufferOk c rest :=
  ⟨hv, h.length_le.trans hl, h.residue⟩

end BufferOk

namespace ConnectOk

variable {conn : ConnState} {pending : Option Nat} {n : Nat}

theorem pending_none (h : ConnectOk conn pending n) (hc : conn ≠ .connecting) : pending = none := by
  simpa using mt h.connect_iff.1 hc

/-- No call is pending outside Connecting. -/
theorem idle (hc : conn ≠ .connecting) (n : Nat) : ConnectOk conn none n := ⟨by simp [hc], by simp⟩

/-- A later ticket is as good. -/
theorem takeTicket (h : ConnectOk conn pending n) : ConnectOk conn pending (n + 1) :=
  ⟨h.connect_iff, fun t ht => Nat.lt_succ_of_lt (h.ticket_lt t ht)⟩

end ConnectOk

/-! The map -/

namespace MapOk

theorem nil (now : Nat) : MapOk [] now := ⟨Memory.wf_nil, by simp, by simp⟩

theorem mapMark {s : State} (h : MapOk s.cabMap s.now) (id : Byte) (st : CabState) :
    MapOk (s.mapMark id st).cabMap s.now :=
  ⟨s.mapMark_wf h.wf id st, s.mapMark_map_id h.id id st, s.mapMark_past h.past id st⟩

theorem later {m : CabinetMap} {now now' : Nat} (h : MapOk m now) (hn : now ≤ now') : MapOk m now' :=
  ⟨h.wf, h.id, fun e he => (h.past e he).trans hn⟩

end MapOk

/-! One job -/

namespace BatchSplit

variable {ids : Bytes} {opened : List CabinetOpenResult} {failed : List CabinetFailResult}

theorem nil : BatchSplit [] [] [] := ⟨.nil, .slnil, .slnil⟩

/-- One more ID, opened. -/
theorem succeed (h : BatchSplit ids opened failed) (id : Byte) (now : Nat) :
    BatchSplit (ids ++ [id]) (opened ++ [{ id := id, openedAt := now }]) failed := by
  obtain ⟨hperm, hopened, hfailed⟩ := h
  refine ⟨?_, by simpa using hopened.append_right [id], hfailed.trans (List.sublist_append_left _ _)⟩
  have hlast := (hperm.cons id).trans (List.perm_append_singleton id ids).symm
  simpa using List.perm_middle.trans hlast

/-- One more ID, failed. -/
theorem fail (h : BatchSplit ids opened failed) (id : Byte) (e : ErrorValue) :
    BatchSplit (ids ++ [id]) opened (failed ++ [{ id := id, error := e }]) := by
  obtain ⟨hperm, hopened, hfailed⟩ := h
  refine ⟨?_, hopened.trans (List.sublist_append_left _ _), by simpa using hfailed.append_right [id]⟩
  simpa using hperm.append_right [id]

end BatchSplit

namespace OpenJob.Ok

variable {j : OpenJob} {id : Byte}

/-- The current ID is the next one of the batch's done part. -/
theorem take_succ (hid : j.ids[j.k]? = some id) : j.ids.take (j.k + 1) = j.ids.take j.k ++ [id] := by
  simp [List.take_add_one, hid]

/-- An open job whose current ID has been opened (R204). -/
theorem succeed (h : j.Ok) (hid : j.ids[j.k]? = some id) (now : Nat) : (j.succeed id now).Ok where
  ids_ne := h.ids_ne
  k_le := (List.getElem?_eq_some_iff.1 hid).1
  awaitTx_lt := nofun
  batch := take_succ hid ▸ h.batch.succeed id now

/-- An open job whose current ID has failed (R202, R205). -/
theorem fail (h : j.Ok) (hid : j.ids[j.k]? = some id) (e : TransportFault) : (j.fail id e).Ok where
  ids_ne := h.ids_ne
  k_le := (List.getElem?_eq_some_iff.1 hid).1
  awaitTx_lt := nofun
  batch := take_succ hid ▸ h.batch.fail id (.transport e)

/-- An open job whose current command has been written (R203). -/
theorem write (h : j.Ok) (hid : j.ids[j.k]? = some id) : ({ j with phase := .awaitTx } : OpenJob).Ok :=
  ⟨h.ids_ne, h.k_le, fun _ => (List.getElem?_eq_some_iff.1 hid).1, h.batch⟩

end OpenJob.Ok

namespace StatusJob.Ok

variable {now : Nat} {j : StatusJob}

theorem deadline_none (h : j.Ok now) (hp : j.phase ≠ .awaiting) : j.deadline = none := by
  simpa using mt h.deadline_iff.1 hp

/-- A status job in AwaitTx, the response seen or not (R209, R212). -/
theorem awaitTx (h : j.Ok now) (hp : j.phase ≠ .awaiting) (seen : Bool) :
    ({ j with phase := .awaitTx, respSeen := seen } : StatusJob).Ok now where
  deadline_iff := by simp [h.deadline_none hp]
  deadline_future := by simp [h.deadline_none hp]
  respSeen_phase _ := rfl

/-- A status job with an armed deadline (R210). -/
theorem awaiting {d : Nat} (hs : j.respSeen = false) (hd : now < d) :
    ({ j with phase := .awaiting, deadline := some d } : StatusJob).Ok now where
  deadline_iff := by simp
  deadline_future := by simpa using hd
  respSeen_phase := by simp [hs]

/-- Time passes short of the deadline (R215). -/
theorem later {now' : Nat} (h : j.Ok now) (he : j.expired now' = false) : j.Ok now' := by
  refine ⟨h.deadline_iff, fun d hd => ?_, h.respSeen_phase⟩
  have hp : j.phase = .awaiting := h.deadline_iff.1 (by simp [hd])
  simpa [StatusJob.expired, hp, hd] using he

end StatusJob.Ok

/-- A job not yet started waits for no deadline. -/
theorem Job.Ok.later_of_fresh {j : Job} {now : Nat} (h : j.Ok now) (hf : j.Fresh) (now' : Nat) : j.Ok now' := by
  cases j with
  | openJob j => exact h
  | statusJob j =>
    obtain ⟨hp, -, -⟩ := hf
    exact StatusJob.Ok.later h (by simp [StatusJob.expired, hp])

/-- A job not yet started has no write outstanding. -/
theorem Job.Fresh.isAwaitTx {j : Job} (h : j.Fresh) : j.isAwaitTx = false := by
  cases j with
  | openJob j =>
    obtain ⟨-, -, -, hp⟩ := h
    simp [Job.isAwaitTx, hp]
  | statusJob j =>
    obtain ⟨hp, -, -⟩ := h
    simp [Job.isAwaitTx, hp]

/-! The jobs -/

namespace JobsOk

variable {active : Option Job} {j : Job} {queue : List Job} {now n sendAt : Nat}

theorem nil (now n sendAt : Nat) : JobsOk none [] now n sendAt :=
  ⟨by simp, by simp, by simp, by simp, by simp, by simp⟩

/-- The active job resolves. -/
theorem resolve (h : JobsOk (some j) queue now n sendAt) (sendAt' : Nat) : JobsOk none queue now n sendAt' where
  active_ok := by simp
  paced := by simp
  queue_ok := h.queue_ok
  queue_fresh := h.queue_fresh
  tickets_rise := (List.pairwise_cons.1 h.tickets_rise).2
  tickets_lt i hi := h.tickets_lt i (List.mem_cons_of_mem _ hi)

/-- The active job moves on. -/
theorem update (h : JobsOk (some j) queue now n sendAt) {j' : Job} {sendAt' : Nat} (ht : j'.ticket = j.ticket)
    (hok : j'.Ok now) (hp : j'.isAwaitTx = true → sendAt' ≤ now) : JobsOk (some j') queue now n sendAt' where
  active_ok := by simpa using hok
  paced := by simpa using hp
  queue_ok := h.queue_ok
  queue_fresh := h.queue_fresh
  tickets_rise := by simpa [ht] using h.tickets_rise
  tickets_lt := by simpa [ht] using h.tickets_lt

/-- The head of the queue becomes active (R197). -/
theorem dequeue (h : JobsOk none (j :: queue) now n sendAt) : JobsOk (some j) queue now n sendAt where
  active_ok := by simpa using h.queue_ok j List.mem_cons_self
  paced := by simp [(h.queue_fresh j List.mem_cons_self).isAwaitTx]
  queue_ok i hi := h.queue_ok i (List.mem_cons_of_mem _ hi)
  queue_fresh i hi := h.queue_fresh i (List.mem_cons_of_mem _ hi)
  tickets_rise := h.tickets_rise
  tickets_lt := h.tickets_lt

/-- A later ticket is as good. -/
theorem takeTicket (h : JobsOk active queue now n sendAt) : JobsOk active queue now (n + 1) sendAt :=
  { h with tickets_lt := fun i hi => Nat.lt_succ_of_lt (h.tickets_lt i hi) }

/-- A fresh job with the next ticket joins the queue (R200, R208). -/
theorem enqueue (h : JobsOk active queue now n sendAt) (hok : j.Ok now) (hf : j.Fresh) (ht : j.ticket = n) :
    JobsOk active (queue ++ [j]) now (n + 1) sendAt where
  active_ok := h.active_ok
  paced := h.paced
  queue_ok := by simpa [or_imp, forall_and] using And.intro h.queue_ok hok
  queue_fresh := by simpa [or_imp, forall_and] using And.intro h.queue_fresh hf
  tickets_rise := by
    rw [← List.append_assoc, List.map_append, List.pairwise_append]
    refine ⟨h.tickets_rise, by simp, ?_⟩
    intro a ha b hb
    obtain ⟨i, hi, rfl⟩ := List.mem_map.1 ha
    obtain rfl : b = n := by simpa [ht] using hb
    exact h.tickets_lt i hi
  tickets_lt i hi := by
    rw [← List.append_assoc, List.mem_append, List.mem_singleton] at hi
    rcases hi with hi | rfl
    · exact Nat.lt_succ_of_lt (h.tickets_lt i hi)
    · omega

/-- Time passes short of the active job's deadline. -/
theorem later (h : JobsOk active queue now n sendAt) {now' : Nat} (hn : now ≤ now')
    (hok : ∀ j, active = some j → j.Ok now') : JobsOk active queue now' n sendAt :=
  { h with
    active_ok := hok
    paced := fun i hi hw => (h.paced i hi hw).trans hn
    queue_ok := fun i hi => (h.queue_ok i hi).later_of_fresh (h.queue_fresh i hi) now' }

end JobsOk

/-! Advance() (R196) -/

theorem dequeue_sound {s : State} (h : s.Sound) : (dequeue s).Sound := by
  rcases dequeue_cases s with ⟨heq, -⟩ | ⟨j, rest, ha, hq, heq⟩
  · rw [heq]; exact h
  · rw [heq]
    have hj := h.jobs
    rw [ha, hq] at hj
    exact ⟨h.buffer, h.connect, h.map, hj.dequeue⟩

theorem jobStep_sound {s : State} {j : Job} (h : s.Sound) (ha : s.active = some j) (hr : j.isReady = true) :
    (jobStep j s).1.Sound := by
  have hj : JobsOk (some j) s.queue s.now s.nextTicket s.nextSendAt := ha ▸ h.jobs
  have hok := hj.active_ok j rfl
  have hstep := jobStep_outcome j s
  generalize (jobStep j s).1 = t at hstep
  generalize (jobStep j s).2 = progressed at hstep
  cases hstep with
  | finish o hk => exact ⟨h.buffer, h.connect, h.map, hj.resolve _⟩
  | wait => exact h
  | openFail o id hid _ _ => exact ⟨h.buffer, h.connect, h.map, hj.update rfl (OpenJob.Ok.fail hok hid _) nofun⟩
  | openWrite o id hid hw _ =>
    exact ⟨h.buffer, h.connect, h.map, hj.update rfl (OpenJob.Ok.write hok hid) fun _ => hw⟩
  | statusFail => exact ⟨h.buffer, h.connect, h.map, hj.resolve _⟩
  | statusWrite o hw _ =>
    have hp : o.phase = .ready := by simpa [Job.isReady] using hr
    exact ⟨h.buffer, h.connect, h.map, hj.update rfl (StatusJob.Ok.awaitTx hok (by simp [hp]) _) fun _ => hw⟩

/-- Advance() turns the parts into the invariant. -/
theorem State.Sound.advance_inv {s : State} (h : s.Sound) : (advance s).Inv :=
  (advance s).inv_iff.2
    ⟨advance_keeps (P := State.Sound) (fun _ => dequeue_sound) (fun _ _ => jobStep_sound) h, advance_quiescent s⟩

/-! Host calls (R190 to R216) -/

theorem takeTicket_sound {s : State} (h : s.Sound) : s.takeTicket.Sound :=
  ⟨h.buffer, h.connect.takeTicket, h.map, h.jobs.takeTicket⟩

theorem respond_sound {s : State} (h : s.Sound) (ticket : Nat) (v : ResponseValue) : (s.respond ticket v).Sound :=
  ⟨h.buffer, h.connect, h.map, h.jobs⟩

theorem signal_sound {s : State} (h : s.Sound) (d : Diag) : (s.signal d).Sound :=
  ⟨h.buffer, h.connect, h.map, h.jobs⟩

/-- No call is pending once it is answered. -/
@[simp] theorem State.answerConnect_connectTicket (s : State) (v : ResponseValue) :
    (s.answerConnect v).connectTicket = none := by
  unfold State.answerConnect
  split
  next hn => exact hn
  next => rfl

theorem onConnect_sound {s : State} (h : s.Sound) (path : OpaqueValue) (baud : Nat) :
    (onConnect path baud s.nextTicket s.takeTicket).Sound := by
  unfold onConnect
  split
  · exact ⟨h.buffer, ⟨by simp, by simp⟩, h.map, h.jobs.takeTicket⟩
  · exact respond_sound (takeTicket_sound h) _ _

theorem onDisconnect_sound {s : State} (h : s.Sound) : (onDisconnect s.nextTicket s.takeTicket).Sound := by
  unfold onDisconnect
  dsimp only
  split
  next =>
    exact ⟨by simpa using h.buffer, by simpa using ConnectOk.idle (by decide) _, by simpa using h.map,
      by simpa using h.jobs.takeTicket⟩
  next hc => exact ⟨h.buffer, h.connect.pending_none hc ▸ .idle (by simp) _, h.map, h.jobs.takeTicket⟩

/-- An accepted batch is not empty (R199). -/
theorem ne_nil_of_structuralError_none {ids : List Int} (h : structuralError ids = none) : ids ≠ [] := by
  rintro rfl
  simp [structuralError] at h

/-- The job of an accepted batch (R200). -/
theorem OpenJob.Ok.start {ids : Bytes} (h : ids ≠ []) (ticket : Nat) :
    OpenJob.Ok { ticket := ticket, ids := ids, k := 0, opened := [], failed := [], phase := .ready } :=
  ⟨h, Nat.zero_le _, nofun, .nil⟩

theorem onOpenCabinets_sound {s : State} (h : s.Sound) (ids : List Int) :
    (onOpenCabinets ids s.nextTicket s.takeTicket).Sound := by
  unfold onOpenCabinets
  split
  · exact respond_sound (takeTicket_sound h) _ _
  next hn =>
    have hok := OpenJob.Ok.start (by simpa using ne_nil_of_structuralError_none hn) s.nextTicket (ids := ids.map idByte)
    exact ⟨h.buffer, h.connect.takeTicket, h.map, h.jobs.enqueue hok ⟨rfl, rfl, rfl, rfl⟩ rfl⟩

theorem onGetStatus_sound {s : State} (h : s.Sound) (fresh : Bool) :
    (onGetStatus fresh s.nextTicket s.takeTicket).Sound := by
  unfold onGetStatus
  split
  · have hok : StatusJob.Ok s.now { ticket := s.nextTicket, phase := .ready, deadline := none, respSeen := false } :=
      ⟨by simp, by simp, by simp⟩
    exact ⟨h.buffer, h.connect.takeTicket, h.map, h.jobs.enqueue hok ⟨rfl, rfl, rfl⟩ rfl⟩
  · exact respond_sound (takeTicket_sound h) _ _

theorem onResetStatus_sound {s : State} (h : s.Sound) : (onResetStatus s.nextTicket s.takeTicket).Sound :=
  ⟨h.buffer, h.connect.takeTicket, .nil _, h.jobs.takeTicket⟩

/-! Transport events (R192 to R195, R204, R205, R210) -/

/-- The pending call is answered as the engine leaves Connecting. -/
theorem setConn_answerConnect_sound {s : State} (h : s.Sound) {c : ConnState} (hc : c ≠ .connecting)
    (v : ResponseValue) : ((s.setConn c).answerConnect v).Sound :=
  ⟨by simpa using h.buffer, by simpa using ConnectOk.idle hc _, by simpa using h.map, by simpa using h.jobs⟩

theorem onConnectDone_sound {s : State} (h : s.Sound) (r : TransportResult) : (onConnectDone r s).Sound := by
  unfold onConnectDone
  split
  · cases r with
    | ok => exact setConn_answerConnect_sound h (by decide) _
    | err e => exact setConn_answerConnect_sound h (by decide) _
  · exact signal_sound h _

theorem onLineLost_sound {s : State} (h : s.Sound) : (onLineLost s).Sound := by
  unfold onLineLost
  split
  next hc =>
    have hp := h.connect.pending_none (by simp [hc])
    exact ⟨h.buffer, hp ▸ .idle (by simp) _, h.map, h.jobs⟩
  next => exact h

theorem openTxDone_sound {s : State} (h : s.Sound) {j : OpenJob} {id : Byte} (ha : s.active = some (.openJob j))
    (hid : j.ids[j.k]? = some id) (r : TransportResult) : (openTxDone j id r s).Sound := by
  have hj := ha ▸ h.jobs
  have hok : j.Ok := hj.active_ok _ rfl
  cases r with
  | ok => exact ⟨h.buffer, h.connect, h.map.mapMark id .opened, hj.update rfl (hok.succeed hid _) nofun⟩
  | err e => exact ⟨h.buffer, h.connect, h.map, hj.update rfl (hok.fail hid _) nofun⟩

theorem statusTxDone_sound {s : State} (h : s.Sound) {j : StatusJob} (ha : s.active = some (.statusJob j))
    (r : TransportResult) : (statusTxDone j r s).Sound := by
  have hj := ha ▸ h.jobs
  cases r with
  | err e => exact ⟨h.buffer, h.connect, h.map, hj.resolve _⟩
  | ok =>
    unfold statusTxDone
    dsimp only
    split
    next => exact ⟨h.buffer, h.connect, h.map, hj.resolve _⟩
    next hs =>
      obtain ⟨-, -, ht⟩ := (Cfg.valid_iff _).1 h.buffer.cfg_valid
      have hok := StatusJob.Ok.awaiting (by simpa using hs) (show s.now < s.now + s.cfg.statusTimeout by omega)
      exact ⟨h.buffer, h.connect, h.map, hj.update rfl hok nofun⟩

theorem onTxDone_sound {s : State} (h : s.Sound) (r : TransportResult) : (onTxDone r s).Sound := by
  unfold onTxDone
  split
  next j ha =>
    split
    next id _ hid => exact openTxDone_sound h ha hid r
    next => exact signal_sound h _
  next j ha =>
    split
    next => exact statusTxDone_sound h ha r
    next => exact signal_sound h _
  next => exact signal_sound h _

/-! The timer event (R183, R215) -/

theorem onTick_sound {s : State} (h : s.Sound) (n : Nat) : (onTick n s).Sound := by
  have hle : s.now ≤ max s.now n := Nat.le_max_left _ _
  have keeps (hok : ∀ j, s.active = some j → j.Ok (max s.now n)) : (s.advanceTime n).Sound :=
    ⟨by simpa using h.buffer, by simpa using h.connect, by simpa using h.map.later hle,
      by simpa using h.jobs.later hle hok⟩
  unfold onTick checkTimeout
  split
  next j ha =>
    have ha : s.active = some (.statusJob j) := by simpa using ha
    have hj := ha ▸ h.jobs
    split
    next =>
      exact ⟨by simpa [resolve_eq] using h.buffer, by simpa [resolve_eq] using h.connect,
        by simpa [resolve_eq] using h.map.later hle,
        by simpa [resolve_eq] using (hj.resolve s.nextSendAt).later hle nofun⟩
    next he =>
      have hok : j.Ok (max s.now n) := StatusJob.Ok.later (hj.active_ok _ rfl) (by simpa using he)
      exact keeps fun i hi => by
        obtain rfl := Option.some.inj (ha.symm.trans hi)
        exact hok
  next hn =>
    refine keeps fun i hi => ?_
    cases i with
    | openJob o => exact h.jobs.active_ok _ hi
    | statusJob o => exact absurd (by simpa using hi) (hn o)

/-! Inbound bytes (R141, R211, R212) -/

theorem noteResponse_sound {s : State} (h : s.Sound) : (noteResponse s).Sound := by
  have hnote := noteResponse_outcome s
  generalize noteResponse s = t at hnote
  cases hnote with
  | fresh j ha _ =>
    have hj := ha ▸ h.jobs
    exact ⟨h.buffer, h.connect, h.map, hj.resolve _⟩
  | seen j ha hp =>
    have hj := ha ▸ h.jobs
    have hok : StatusJob.Ok s.now { j with respSeen := true } :=
      hp ▸ StatusJob.Ok.awaitTx (hj.active_ok _ rfl) (by simp [hp]) true
    exact ⟨h.buffer, h.connect, h.map, hj.update rfl hok fun _ => hj.paced _ rfl (by simp [Job.isAwaitTx, hp])⟩
  | none => exact h

theorem merge_sound {s : State} (h : s.Sound) (d : List (Byte × CabState)) : (merge d s).Sound :=
  noteResponse_sound
    (marks_induct (P := State.Sound) (fun _ p hs => ⟨hs.buffer, hs.connect, hs.map.mapMark p.1 p.2, hs.jobs⟩) d h)

theorem onFrame_sound {s : State} (h : s.Sound) (f : Bytes) (valid : Bool) : (onFrame f valid s).Sound := by
  rcases onFrame_cases f valid s with heq | ⟨-, -, -, d, heq⟩
  · rw [heq]
    exact ⟨h.buffer, h.connect, h.map, h.jobs⟩
  · rw [heq]
    exact merge_sound (s := { s with out := s.out ++ [.frame f valid] }) ⟨h.buffer, h.connect, h.map, h.jobs⟩ d

theorem onFrames_sound (fs : List (Bytes × Bool)) {s : State} (h : s.Sound) : (onFrames fs s).Sound := by
  induction fs generalizing s with
  | nil => exact h
  | cons p fs ih => exact ih (onFrame_sound h p.1 p.2)

theorem reassemble_sound {s : State} (h : s.Sound) (chunk : Bytes) : (reassemble chunk s).1.Sound := by
  have hv := h.buffer.cfg_valid
  rcases reassemble_cases chunk s with ⟨-, heq⟩ | ⟨hle, drops, fs, rest, hc, heq⟩
  · rw [heq]
    exact ⟨.nil hv, h.connect, h.map, h.jobs⟩
  · rw [heq]
    exact ⟨.cuts hv (List.length_append.trans_le hle) hc, h.connect, h.map, h.jobs⟩

/-! One step (R15) -/

/-- What an event's operands decode to is an event (R88, R90). -/
theorem decodeOperands_isEvent {k : EventKind} {bs pad : Bytes} {i : Instr}
    (h : decodeOperands k bs = .ok (i, pad)) : i.isEvent = true := by
  unfold decodeOperands at h
  -- each branch of each kind is an error or the kind's own instruction
  split at h <;> (repeat' split at h) <;> cases h <;> rfl

/-- What an event record decodes to is an event. -/
theorem decodeEvent_isEvent {r : Bytes} {i : Instr} (h : decodeEvent r = .ok i) : i.isEvent = true := by
  unfold decodeEvent at h
  split at h
  next => cases h
  next =>
    split at h
    next => cases h
    next k _ =>
      split at h
      next => cases h
      next i' pad hops =>
        split at h
        next =>
          cases h
          exact decodeOperands_isEvent hops
        next => cases h

/-- Every event keeps the invariant: its operation keeps the parts, and its Advance() ends quiescent. -/
theorem exec_inv {i : Instr} {s t : State} (hi : i.isEvent = true) (h : s.Sound) (ht : exec i s = .next t) :
    t.Inv := by
  have of_advance {u : State} (hu : u.Sound) (heq : (.next (advance u) : Host.Outcome State Fault Refusal) = .next t) :
      t.Inv := Host.Outcome.next.inj heq ▸ hu.advance_inv
  cases i with
  | connect path baud => exact of_advance (onConnect_sound h path baud) ht
  | disconnect => exact of_advance (onDisconnect_sound h) ht
  | openCabinets ids => exact of_advance (onOpenCabinets_sound h ids) ht
  | getStatus fresh => exact of_advance (onGetStatus_sound h fresh) ht
  | resetStatus => exact of_advance (onResetStatus_sound h) ht
  | connectDone r => exact of_advance (onConnectDone_sound h r) ht
  | txDone r => exact of_advance (onTxDone_sound h r) ht
  | rx chunk => exact of_advance (onFrames_sound _ (reassemble_sound h chunk)) ht
  | lineLost => exact of_advance (onLineLost_sound h) ht
  | tick n => exact of_advance (onTick_sound h n) ht
  | _ => cases hi

/-- Settles O39: the pending event is taken off the inbox, which no part of the invariant reads, and keeps the
invariant. -/
theorem everyStepKeepsTheInvariants : Obligations.EveryStepKeepsTheInvariants := by
  unfold Obligations.EveryStepKeepsTheInvariants
  intro s t h ht
  have hs := (s.inv_iff.1 h).1
  cases hin : s.inbox with
  | nil =>
    rw [step_of_idle hin] at ht
    exact Host.Outcome.next.inj ht ▸ h
  | cons r rest =>
    cases hd : decodeEvent r with
    | error e =>
      rw [step_of_undecodable hin hd] at ht
      cases ht
    | ok i =>
      rw [step_of_event hin hd] at ht
      exact exec_inv (s := { s with inbox := rest }) (decodeEvent_isEvent hd) ⟨hs.buffer, hs.connect, hs.map, hs.jobs⟩ ht

/-! Construction (R43, R270, R271) -/

theorem constructed_inv {c : Cfg} (h : c.valid = true) : (State.constructed c).Inv :=
  (State.inv_iff _).2 ⟨⟨.nil h, .idle (by simp [State.constructed]) _, .nil _, .nil _ _ _⟩, ⟨fun _ => rfl, nofun, nofun⟩⟩

/-- Settles O38: the registers of R43 are empty, and `Config.cfg` meets the constraints. -/
theorem constructionMeetsTheInvariants : Obligations.ConstructionMeetsTheInvariants := by
  unfold Obligations.ConstructionMeetsTheInvariants
  exact ⟨constructed_inv Config.cfg_valid, fun _ => constructed_inv⟩

theorem construct_of_valid {c : Cfg} (h : c.valid = true) : construct c = .next (State.constructed c) := if_pos h

theorem construct_of_invalid {c : Cfg} (h : ¬ c.valid = true) : construct c = .refused .configRefused := if_neg h

/-- Settles O58: construction tests the constraints, and its one output reports a collision. -/
theorem constructionOrRefusal : Obligations.ConstructionOrRefusal := by
  unfold Obligations.ConstructionOrRefusal
  refine ⟨construct_of_valid Config.cfg_valid, fun c => ?_⟩
  simp only [← Cfg.valid_iff, ← Cfg.collision_iff]
  exact ⟨construct_of_valid, construct_of_invalid⟩

end Sys2Proof.Machine
end

section
/-! PROOFS. Who writes MAP (R26): every operation but the writers' leaves it, and a writer other than the reset deletes
no entry. -/

namespace Sys2Proof.Machine

open Sys2Proof

/-! What a writer does to MAP -/

/-- From `m` to `m'` the map changes only if `why`, and no present entry becomes absent. -/
structure MapStep (why : Prop) (m m' : CabinetMap) : Prop where
  changes : m' ≠ m → why
  keeps : ∀ k, m.get k ≠ none → m'.get k ≠ none

namespace MapStep

variable {why why' : Prop} {m m' m'' : CabinetMap}

theorem of_eq (h : m' = m) : MapStep why m m' := ⟨fun hne => absurd h hne, fun _ hk => h ▸ hk⟩

theorem trans (h : MapStep why m m') (h' : MapStep why m' m'') : MapStep why m m'' where
  changes hne := by
    by_cases hm : m' = m
    · exact h'.changes (hm ▸ hne)
    · exact h.changes hm
  keeps k hk := h'.keeps k (h.keeps k hk)

theorem imp (h : MapStep why m m') (hw : why → why') : MapStep why' m m' := ⟨fun hne => hw (h.changes hne), h.keeps⟩

/-- A write overwrites or adds an entry (R52). -/
theorem put (hw : why) (m : CabinetMap) (i : Nat) (v : CabinetStatus) : MapStep why m (m.put i v) where
  changes _ := hw
  keeps k hk := by
    rw [CabinetMap.get_put]
    split
    · simp
    · exact hk

/-- The writes of a merge (R212). -/
theorem marks (hw : why) (d : List (Byte × CabState)) (s : State) :
    MapStep why s.cabMap (d.foldl (fun t p => t.mapMark p.1 p.2) s).cabMap :=
  marks_induct (P := fun t => MapStep why s.cabMap t.cabMap) (fun _ _ h => h.trans (put hw _ _ _)) d (of_eq rfl)

end MapStep

/-! What leaves MAP -/

@[simp] theorem advance_cabMap (s : State) : (advance s).cabMap = s.cabMap := by
  obtain ⟨n, os, heq⟩ := advance_frame s
  rw [heq]

@[simp] theorem resolve_cabMap (j : StatusJob) (f : Freshness) (s : State) : (resolve j f s).cabMap = s.cabMap := rfl

@[simp] theorem sendOpen_cabMap (j : OpenJob) (id : Byte) (s : State) : (sendOpen j id s).1.cabMap = s.cabMap := by
  unfold sendOpen
  split
  · rfl
  · split <;> simp

@[simp] theorem sendStatusReq_cabMap (j : StatusJob) (s : State) : (sendStatusReq j s).1.cabMap = s.cabMap := by
  unfold sendStatusReq
  split
  · rfl
  · split <;> simp

@[simp] theorem onConnect_cabMap (path : OpaqueValue) (baud ticket : Nat) (s : State) :
    (onConnect path baud ticket s).cabMap = s.cabMap := by
  unfold onConnect
  split <;> rfl

@[simp] theorem onDisconnect_cabMap (ticket : Nat) (s : State) : (onDisconnect ticket s).cabMap = s.cabMap := by
  unfold onDisconnect
  dsimp only
  split <;> simp

@[simp] theorem onOpenCabinets_cabMap (ids : List Int) (ticket : Nat) (s : State) :
    (onOpenCabinets ids ticket s).cabMap = s.cabMap := by
  unfold onOpenCabinets
  split <;> rfl

@[simp] theorem onGetStatus_cabMap (fresh : Bool) (ticket : Nat) (s : State) :
    (onGetStatus fresh ticket s).cabMap = s.cabMap := by
  unfold onGetStatus
  split <;> rfl

@[simp] theorem onConnectDone_cabMap (r : TransportResult) (s : State) : (onConnectDone r s).cabMap = s.cabMap := by
  unfold onConnectDone
  split
  · cases r <;> simp
  · rfl

@[simp] theorem onLineLost_cabMap (s : State) : (onLineLost s).cabMap = s.cabMap := by
  unfold onLineLost
  split <;> rfl

@[simp] theorem statusTxDone_cabMap (j : StatusJob) (r : TransportResult) (s : State) :
    (statusTxDone j r s).cabMap = s.cabMap := by
  cases r with
  | err e => rfl
  | ok =>
    unfold statusTxDone
    dsimp only
    split <;> rfl

@[simp] theorem onTick_cabMap (n : Nat) (s : State) : (onTick n s).cabMap = s.cabMap := by
  unfold onTick checkTimeout
  split
  · split <;> simp
  · simp

@[simp] theorem noteResponse_cabMap (s : State) : (noteResponse s).cabMap = s.cabMap := by
  rw [noteResponse_frame]

@[simp] theorem reassemble_cabMap (chunk : Bytes) (s : State) : (reassemble chunk s).1.cabMap = s.cabMap := by
  rcases reassemble_cases chunk s with ⟨-, heq⟩ | ⟨-, drops, fs, rest, -, heq⟩
  · rw [heq]
  · rw [heq, afterCuts]

/-! The writers -/

/-- The open write (R204). -/
theorem onTxDone_mapStep (r : TransportResult) (s : State) :
    MapStep (r = .ok ∧ ∃ j, s.active = some (.openJob j) ∧ j.phase = .awaitTx) s.cabMap (onTxDone r s).cabMap := by
  unfold onTxDone
  split
  next j ha =>
    split
    next id hp _ =>
      cases r with
      | ok => exact .put ⟨rfl, j, ha, hp⟩ _ _ _
      | err e => exact .of_eq rfl
    next => exact .of_eq rfl
  next =>
    split
    · exact .of_eq (by simp)
    · exact .of_eq rfl
  next => exact .of_eq rfl

/-- A frame that comes with its own validity writes MAP only if it is a status response (R80, R211, R212). -/
theorem onFrame_mapStep (f : Bytes) (s : State) :
    MapStep (isStatusResponse s.cfg f = true) s.cabMap (onFrame f (validateFn s.cfg.poly f) s).cabMap := by
  rcases onFrame_cases f (validateFn s.cfg.poly f) s with heq | ⟨hv, hl, hi, d, heq⟩
  · rw [heq]
    exact .of_eq rfl
  · rw [heq, merge, noteResponse_cabMap]
    exact MapStep.marks ((isStatusResponse_iff _ _).2 ⟨hv, hl, hi⟩) d
      { s with out := s.out ++ [.frame f (validateFn s.cfg.poly f)] }

theorem receiveFrame_mapStep (f : Bytes) (s : State) :
    MapStep (isStatusResponse s.cfg f = true) s.cabMap (receiveFrame f s).cabMap := by
  simpa [receiveFrame] using onFrame_mapStep f (s.runValidate f)

/-- Frames that come with their own validity write MAP only if one of them is a status response. -/
theorem onFrames_mapStep (fs : List (Bytes × Bool)) (s : State) (hv : ∀ p ∈ fs, p.2 = validateFn s.cfg.poly p.1) :
    MapStep (∃ p ∈ fs, isStatusResponse s.cfg p.1 = true) s.cabMap (onFrames fs s).cabMap := by
  induction fs generalizing s with
  | nil => exact .of_eq rfl
  | cons p fs ih =>
    have hcfg : (onFrame p.1 p.2 s).cfg = s.cfg := (onFrame_keepsFrame p.1 p.2 s).cfg
    have head : MapStep (isStatusResponse s.cfg p.1 = true) s.cabMap (onFrame p.1 p.2 s).cabMap := by
      rw [hv p List.mem_cons_self]
      exact onFrame_mapStep p.1 s
    have tail := ih (onFrame p.1 p.2 s) fun q hq => by
      rw [hcfg]
      exact hv q (List.mem_cons_of_mem _ hq)
    rw [hcfg] at tail
    refine (head.imp fun h => ⟨p, List.mem_cons_self, h⟩).trans (tail.imp ?_)
    rintro ⟨q, hq, h⟩
    exact ⟨q, List.mem_cons_of_mem _ hq, h⟩

/-- Every cut frame comes with its own validity (R147). -/
theorem reassemble_valid (chunk : Bytes) (s : State) :
    ∀ p ∈ (reassemble chunk s).2, p.2 = validateFn s.cfg.poly p.1 := by
  rcases reassemble_cases chunk s with ⟨-, heq⟩ | ⟨-, drops, fs, rest, -, heq⟩
  · simp [heq]
  · simp [heq, afterCuts]

theorem onRx_mapStep (chunk : Bytes) (s : State) :
    MapStep (∃ p ∈ (reassemble chunk s).2, isStatusResponse s.cfg p.1 = true) s.cabMap (onRx chunk s).cabMap := by
  obtain ⟨hcfg, -, -⟩ := reassemble_frame chunk s
  have h := onFrames_mapStep (reassemble chunk s).2 (reassemble chunk s).1 (by
    rw [hcfg]
    exact reassemble_valid chunk s)
  rwa [hcfg, reassemble_cabMap] at h

/-! Every instruction -/

/-- The writers of MAP other than the reset (R26). -/
def MapWriter (i : Instr) (s : State) : Prop :=
  (i = .txDone .ok ∧ ∃ j, s.active = some (.openJob j) ∧ j.phase = .awaitTx) ∨
  (∃ chunk, i = .rx chunk ∧ ∃ p ∈ (reassemble chunk s).2, isStatusResponse s.cfg p.1 = true) ∨
  (∃ a s0 s1 s2 s3 s4 s5 extra, i = .statusResp a s0 s1 s2 s3 s4 s5 extra) ∨
  (∃ f, i = .inboundOther f ∧ isStatusResponse s.cfg f = true)

theorem execOpenFrame_cabMap {id : Byte} {s t : State} (h : execOpenFrame id s = .next t) : t.cabMap = s.cabMap := by
  rw [← Host.Outcome.next.inj h]
  split
  · split <;> simp
  · rfl

theorem execStatusReq_cabMap {s t : State} (h : execStatusReq s = .next t) : t.cabMap = s.cabMap := by
  rw [← Host.Outcome.next.inj h]
  split
  · split <;> simp
  · rfl

theorem execBuild_cabMap {payload : Bytes} {address instruction : Byte} {s t : State}
    (h : execBuild payload address instruction s = .next t) : t.cabMap = s.cabMap := by
  unfold execBuild at h
  split at h
  · cases h
  · rw [← Host.Outcome.next.inj h]
    rfl

/-- Every instruction but the reset changes MAP as a writer only, and deletes no entry. -/
theorem exec_mapStep {i : Instr} {s t : State} (hi : i ≠ .resetStatus) (h : exec i s = .next t) :
    MapStep (MapWriter i s) s.cabMap t.cabMap := by
  have writes {why : Prop} {u : State} (heq : (.next u : Host.Outcome State Fault Refusal) = .next t)
      (hu : MapStep why s.cabMap u.cabMap) : MapStep why s.cabMap t.cabMap := Host.Outcome.next.inj heq ▸ hu
  have leaves {u : State} (heq : (.next u : Host.Outcome State Fault Refusal) = .next t) (hu : u.cabMap = s.cabMap) :
      MapStep (MapWriter i s) s.cabMap t.cabMap := writes heq (.of_eq hu)
  cases i with
  | openFrame id => exact .of_eq (execOpenFrame_cabMap h)
  | statusReq => exact .of_eq (execStatusReq_cabMap h)
  | statusResp a s0 s1 s2 s3 s4 s5 extra =>
    exact (writes h (receiveFrame_mapStep _ s)).imp fun _ => .inr (.inr (.inl ⟨a, s0, s1, s2, s3, s4, s5, extra, rfl⟩))
  | inboundOther f =>
    exact (writes h (receiveFrame_mapStep f s)).imp fun hf => .inr (.inr (.inr ⟨f, rfl, hf⟩))
  | connect path baud => exact leaves h (by simp)
  | disconnect => exact leaves h (by simp)
  | openCabinets ids => exact leaves h (by simp)
  | getStatus fresh => exact leaves h (by simp)
  | resetStatus => exact absurd rfl hi
  | connectDone r => exact leaves h (by simp)
  | txDone r =>
    refine (writes h (by simpa using onTxDone_mapStep r s)).imp ?_
    rintro ⟨rfl, hj⟩
    exact .inl ⟨rfl, hj⟩
  | rx chunk => exact (writes h (by simpa using onRx_mapStep chunk s)).imp fun hp => .inr (.inl ⟨chunk, rfl, hp⟩)
  | lineLost => exact leaves h (by simp)
  | tick n => exact leaves h (by simp)
  | round => exact leaves h rfl
  | ckInit => exact leaves h rfl
  | ckByte b => exact leaves h rfl
  | checksum bs => exact leaves h rfl
  | build => exact .of_eq (execBuild_cabMap h)
  | validate f => exact leaves h (by simp)
  | hexdump bs => exact leaves h rfl
  | reassemble chunk => exact leaves h (by simp)
  | decodeStatus f => exact leaves h rfl

/-- Settles O47: the reset is the first writer, `exec_mapStep` names the others and says what they keep. -/
theorem mapChangesOnlyByItsThreeWriters : Obligations.MapChangesOnlyByItsThreeWriters := by
  unfold Obligations.MapChangesOnlyByItsThreeWriters
  intro i s t h
  by_cases hi : i = .resetStatus
  · exact ⟨fun _ => .inl hi, fun hne => absurd hi hne⟩
  · have hstep := exec_mapStep hi h
    exact ⟨fun hne => .inr (hstep.changes hne), fun _ id => hstep.keeps id.toNat⟩

end Sys2Proof.Machine
end

section
/-! PROOFS. The map primitives read as a partial function (R52) and the snapshot of a canonical map (R214). -/

namespace Sys2Proof.Machine

open Sys2Proof

/-- In a map with rising keys the entries are exactly what the keys read as. -/
theorem CabinetMap.mem_iff_get {m : CabinetMap} (h : m.Pairwise fun a b => a.1 < b.1) {k : Nat} {v : CabinetStatus} :
    (k, v) ∈ m ↔ m.get k = some v :=
  ⟨CabinetMap.get_of_mem h, CabinetMap.mem_of_get⟩

@[simp] theorem State.mapGet_mapClear (id : Byte) (s : State) : s.mapClear.mapGet id = none := rfl

/-- Where entries carry their own IDs, the snapshot lists the values that stand under their own ID. -/
theorem State.mem_snapshot_iff {s : State} (hid : ∀ e ∈ s.cabMap, e.2.id.toNat = e.1) {st : CabinetStatus} :
    st ∈ s.snapshot ↔ (st.id.toNat, st) ∈ s.cabMap := by
  rw [State.snapshot, List.mem_map]
  constructor
  · rintro ⟨⟨k, v⟩, he, rfl⟩
    have hk : v.id.toNat = k := hid _ he
    rwa [hk]
  · exact fun he => ⟨_, he, rfl⟩

/-- Where entries carry their own IDs and the keys rise, so do the IDs of the snapshot. -/
theorem State.snapshot_pairwise {s : State} (h : s.cabMap.Pairwise fun a b => a.1 < b.1)
    (hid : ∀ e ∈ s.cabMap, e.2.id.toNat = e.1) : s.snapshot.Pairwise fun a b => a.id.toNat < b.id.toNat := by
  rw [State.snapshot, List.pairwise_map]
  refine h.imp_of_mem fun {a b} ha hb hab => ?_
  rwa [hid a ha, hid b hb]

/-- Settles O49: the laws of the map operations, and a snapshot's order and members carried over from the keys'. -/
theorem mapReadAfterWriteAndSnapshot : Obligations.MapReadAfterWriteAndSnapshot := by
  unfold Obligations.MapReadAfterWriteAndSnapshot
  refine ⟨CabinetMap.get_put, State.mapGet_mapClear, fun m i v => Memory.wf_put, fun s hwf hid => ?_⟩
  obtain ⟨hkeys, -⟩ := (Memory.wf_iff _).1 hwf
  exact ⟨State.snapshot_pairwise hkeys hid,
    fun st => (State.mem_snapshot_iff hid).trans (CabinetMap.mem_iff_get hkeys)⟩

end Sys2Proof.Machine
end

section
/-! PROOFS. Event records (R88): the decoder after the encoder, one lemma for each operand type, then one for the ten kinds;
and the closed table of selectors. -/

namespace Sys2Proof

/-! Operands -/

/-- The digits of a natural read back, whatever follows them, when there are digits enough. -/
theorem decodeNat_encodeNatDigits (fuel : Nat) {n : Nat} (h : n ≤ fuel) (rest : Bytes) :
    decodeNat (encodeNatDigits fuel n ++ rest) = .ok (n, rest) := by
  induction fuel generalizing n with
  | zero =>
    obtain rfl : n = 0 := by omega
    simp [encodeNatDigits, decodeNat]
  | succ fuel ih =>
    unfold encodeNatDigits
    split
    next hn =>
      have hlast : n % 256 = n := by omega
      simp [decodeNat, hlast, hn]
    next hn =>
      have hdigit : (128 + n % 128) % 256 = 128 + n % 128 := by omega
      have hsplit : n % 128 + 128 * (n / 128) = n := Nat.mod_add_div n 128
      simp [decodeNat, hdigit, ih (show n / 128 ≤ fuel by omega), hsplit]

@[simp] theorem decodeNat_encodeNat (n : Nat) (rest : Bytes) : decodeNat (encodeNat n ++ rest) = .ok (n, rest) :=
  decodeNat_encodeNatDigits n (Nat.le_refl n) rest

@[simp] theorem intOfNat_natOfInt (v : Int) : intOfNat (natOfInt v) = v := by
  cases v with
  | ofNat n => simp [natOfInt, intOfNat]
  | negSucc n =>
    have hodd : (2 * n + 1) % 2 = 1 := by omega
    have hhalf : (2 * n + 1) / 2 = n := by omega
    simp [natOfInt, intOfNat, hodd, hhalf]

theorem decodeInts_flatMap_encodeNat (vs : List Int) (rest : Bytes) :
    decodeInts vs.length ((vs.flatMap fun v => encodeNat (natOfInt v)) ++ rest) = .ok (vs, rest) := by
  induction vs with
  | nil => rfl
  | cons v vs ih => simp [decodeInts, ih]

@[simp] theorem decodeIntList_encodeIntList (vs : List Int) (rest : Bytes) :
    decodeIntList (encodeIntList vs ++ rest) = .ok (vs, rest) := by
  simp [decodeIntList, encodeIntList, decodeInts_flatMap_encodeNat]

@[simp] theorem decodeBytes_encodeBytes (bs rest : Bytes) : decodeBytes (encodeBytes bs ++ rest) = .ok (bs, rest) := by
  simp [decodeBytes, encodeBytes]

@[simp] theorem decodeBool_encodeBool (b : Bool) (rest : Bytes) : decodeBool (encodeBool b ++ rest) = .ok (b, rest) := by
  cases b <;> rfl

@[simp] theorem decodeResult_encodeResult (r : TransportResult) (rest : Bytes) :
    decodeResult (encodeResult r ++ rest) = .ok (r, rest) := by
  cases r with
  | ok => rfl
  | err e => simp [decodeResult, encodeResult]

/-! Selectors -/

/-- Each selector finds its kind, so the ten are distinct. -/
@[simp] theorem EventKind.ofSelector_selector (k : EventKind) : EventKind.ofSelector k.selector = some k := by
  cases k <;> rfl

theorem EventKind.selector_injective : Function.Injective EventKind.selector := fun k k' h =>
  Option.some.inj (by rw [← ofSelector_selector k, h, ofSelector_selector])

/-- The selectors of every kind, written out. -/
theorem EventKind.map_selector_all : EventKind.all.map EventKind.selector =
    [0x01#8, 0x02#8, 0x03#8, 0x04#8, 0x05#8, 0x10#8, 0x11#8, 0x12#8, 0x13#8, 0x20#8] := rfl

/-- A byte that is no kind's selector finds none. -/
theorem EventKind.ofSelector_of_notMem {b : Byte} (h : b ∉ EventKind.all.map EventKind.selector) :
    EventKind.ofSelector b = none := by
  refine List.find?_eq_none.2 fun k hk hb => h ?_
  exact List.mem_map.2 ⟨k, hk, by simpa using hb⟩

theorem decodeEvent_of_unknownSelector {b : Byte} (h : EventKind.ofSelector b = none) (bs : Bytes) :
    decodeEvent (b :: bs) = .error (.unknownSelector b) := by
  simp [decodeEvent, h]

/-! Records -/

/-- A record of a selector and its kind's operands decodes to the event the operands are read as. -/
theorem decodeEvent_eventRecord {k : EventKind} {bs : Bytes} {i : Instr}
    (h : ∀ rest, decodeOperands k (bs ++ rest) = .ok (i, rest)) : decodeEvent (eventRecord k bs) = .ok i := by
  have hend : decodeOperands k bs = .ok (i, []) := by simpa using h []
  simp [decodeEvent, eventRecord, hend]

/-- The encoding of each event is a record of its kind, whose operands read back as the event, whatever follows. -/
theorem encode_of_isEvent (c : Cfg) {i : Instr} (h : i.isEvent = true) :
    ∃ k bs, encode c i = some ⟨.event, eventRecord k bs⟩ ∧ ∀ rest, decodeOperands k (bs ++ rest) = .ok (i, rest) := by
  cases i with
  | connect path baud =>
    exact ⟨.connect, encodeBytes path ++ encodeNat baud, rfl, fun rest => by simp [decodeOperands]⟩
  | disconnect => exact ⟨.disconnect, [], rfl, fun _ => rfl⟩
  | openCabinets ids => exact ⟨.openCabinets, encodeIntList ids, rfl, fun rest => by simp [decodeOperands]⟩
  | getStatus fresh => exact ⟨.getStatus, encodeBool fresh, rfl, fun rest => by simp [decodeOperands]⟩
  | resetStatus => exact ⟨.resetStatus, [], rfl, fun _ => rfl⟩
  | connectDone r => exact ⟨.connectDone, encodeResult r, rfl, fun rest => by simp [decodeOperands]⟩
  | txDone r => exact ⟨.txDone, encodeResult r, rfl, fun rest => by simp [decodeOperands]⟩
  | rx chunk => exact ⟨.rx, encodeBytes chunk, rfl, fun rest => by simp [decodeOperands]⟩
  | lineLost => exact ⟨.lineLost, [], rfl, fun _ => rfl⟩
  | tick t => exact ⟨.tick, encodeNat t, rfl, fun rest => by simp [decodeOperands]⟩
  | _ => cases h

/-- Every event is well formed: its operands' types say all (R88). -/
theorem wellFormed_of_isEvent (c : Cfg) {i : Instr} (h : i.isEvent = true) : i.wellFormed c = true := by
  cases i with
  | openFrame | statusReq | statusResp | inboundOther | decodeStatus => cases h
  | _ => rfl

/-- Settles O55: the encodings begin with the selectors of `EventKind.selector`, whose inverse is
`EventKind.ofSelector`. -/
theorem selectorsAreAClosedTable : Obligations.SelectorsAreAClosedTable := by
  unfold Obligations.SelectorsAreAClosedTable
  refine ⟨fun c => ?_, fun _ _ h => EventKind.selector_injective h, EventKind.ofSelector_selector, fun b bs hb => ?_⟩
  · exact ⟨fun _ _ => ⟨_, rfl⟩, ⟨_, rfl⟩, fun _ => ⟨_, rfl⟩, fun _ => ⟨_, rfl⟩, ⟨_, rfl⟩, fun _ => ⟨_, rfl⟩,
      fun _ => ⟨_, rfl⟩, fun _ => ⟨_, rfl⟩, ⟨_, rfl⟩, fun _ => ⟨_, rfl⟩⟩
  · rw [← EventKind.map_selector_all] at hb
    exact decodeEvent_of_unknownSelector (EventKind.ofSelector_of_notMem hb) bs

end Sys2Proof
end

section
/-! PROOFS. Frames (R70 to R80): the fields of a built frame, a valid frame as a built one, and that each of the two frame
decoders is the inverse of the encoder. Last, the decoder and the encoder over the three ports. -/

namespace Sys2Proof

/-! The fields of a built frame (R121) -/

section Fields

variable (c : Cfg) {p : Bytes} (a i : Byte)

/-- LENGTH counts ADDRESS, INSTRUCTION and the payload (R72). -/
theorem frameLength_sealFrame (h : p.length ≤ 253) :
    frameLength (sealFrame c.poly (frameBody c p a i)) = 2 + p.length := by
  have hl : (2 + p.length) % 256 = 2 + p.length := by omega
  simp [frameLength, byteAt, sealFrame, frameBody, hl]

@[simp] theorem frameAddress_sealFrame : frameAddress (sealFrame c.poly (frameBody c p a i)) = a := rfl

@[simp] theorem frameInstruction_sealFrame : frameInstruction (sealFrame c.poly (frameBody c p a i)) = i := rfl

theorem isFrame_sealFrame (h : p.length ≤ 253) : isFrame c (sealFrame c.poly (frameBody c p a i)) = true := by
  have hlen : (sealFrame c.poly (frameBody c p a i)).length = p.length + 6 := by simp [frameBody]
  refine (isFrame_iff _ _).2 ⟨by omega, rfl, rfl, ?_⟩
  rw [hlen, frameLength_sealFrame c a i h]
  omega

end Fields

/-- A valid frame with LENGTH ≥ 2 is a built one, with its own ADDRESS and INSTRUCTION (R85, R121). -/
theorem exists_sealFrame_of_valid {c : Cfg} {f : Bytes} (hf : isFrame c f = true) (hv : validateFn c.poly f = true)
    (hl : 2 ≤ frameLength f) : ∃ p : Bytes, 2 + p.length = frameLength f ∧
      f = sealFrame c.poly (frameBody c p (frameAddress f) (frameInstruction f)) := by
  obtain ⟨-, h0, h1, hlen⟩ := (isFrame_iff _ _).1 hf
  obtain ⟨g, rfl⟩ : ∃ g, f = sealFrame c.poly g := ⟨_, sealFrame_of_valid hv⟩
  rw [sealFrame_length] at hlen
  match g with
  | b0 :: b1 :: l :: a :: i :: p =>
    obtain rfl : b0 = c.hdr0 := h0
    obtain rfl : b1 = c.hdr1 := h1
    have hL : frameLength (sealFrame c.poly (c.hdr0 :: c.hdr1 :: l :: a :: i :: p)) = l.toNat := rfl
    have hl' : 2 + p.length = l.toNat := by simp only [hL, List.length_cons] at hlen; omega
    refine ⟨p, hl'.trans hL.symm, ?_⟩
    simp only [frameBody, hl', BitVec.ofNat_toNat, BitVec.setWidth_eq]
    rfl
  | [] | [_] | [_, _] | [_, _, _] | [_, _, _, _] =>
    simp only [List.length_cons, List.length_nil] at hlen
    omega

/-! Outbound frames (R77, R78) -/

theorem decodeOutbound_openFrame (c : Cfg) (id : Byte) :
    decodeOutbound c (sealFrame c.poly (frameBody c [id] c.address c.instrOpen)) = .ok (.openFrame id) := by
  have hp : [id].length ≤ 253 := by simp
  simp only [decodeOutbound, isFrame_sealFrame c _ _ hp, frameLength_sealFrame c _ _ hp, validateFn_sealFrame,
    frameAddress_sealFrame, frameInstruction_sealFrame]
  simp [byteAt, sealFrame, frameBody]

theorem decodeOutbound_statusReq (c : Cfg) :
    decodeOutbound c (sealFrame c.poly (frameBody c [] c.address c.instrStatusReq)) = .ok .statusReq := by
  have hp : ([] : Bytes).length ≤ 253 := by simp
  simp [decodeOutbound, isFrame_sealFrame c _ _ hp, frameLength_sealFrame c _ _ hp]

/-- What the outbound decoder accepts: a valid frame to ADDRESS of one of the two formats. -/
theorem decodeOutbound_cases {c : Cfg} {f : Bytes} {i : Instr} (h : decodeOutbound c f = .ok i) :
    isFrame c f = true ∧ validateFn c.poly f = true ∧ frameAddress f = c.address ∧
      (frameLength f = 3 ∧ frameInstruction f = c.instrOpen ∧ i = .openFrame (byteAt f 5) ∨
        frameLength f = 2 ∧ frameInstruction f = c.instrStatusReq ∧ i = .statusReq) := by
  have hf : isFrame c f = true := by
    by_contra hf
    rw [Bool.not_eq_true] at hf
    simp [decodeOutbound, hf] at h
  have hv : validateFn c.poly f = true := by
    by_contra hv
    rw [Bool.not_eq_true] at hv
    simp [decodeOutbound, hf, hv] at h
  have ha : frameAddress f = c.address := by
    by_contra ha
    simp [decodeOutbound, hf, hv, ha] at h
  refine ⟨hf, hv, ha, ?_⟩
  simp only [decodeOutbound, hf, hv, ha, Bool.not_true, Bool.false_eq_true, ne_eq, not_true_eq_false, if_false] at h
  split at h
  next hopen => exact .inl ⟨hopen.1, hopen.2, (Except.ok.inj h).symm⟩
  next =>
    split at h
    next hreq => exact .inr ⟨hreq.1, hreq.2, (Except.ok.inj h).symm⟩
    next => cases h

/-- A frame the outbound decoder accepts is the frame of what it answers (R81, R85). -/
theorem encode_of_decodeOutbound {c : Cfg} {f : Bytes} {i : Instr} (h : decodeOutbound c f = .ok i) :
    encode c i = some ⟨.outbound, f⟩ := by
  obtain ⟨hf, hv, ha, hformat⟩ := decodeOutbound_cases h
  obtain ⟨p, hp, hbuilt⟩ := exists_sealFrame_of_valid hf hv (by omega)
  rcases hformat with ⟨hl, hi, rfl⟩ | ⟨hl, hi, rfl⟩
  · obtain ⟨id, rfl⟩ := List.length_eq_one_iff.1 (show p.length = 1 by omega)
    rw [ha, hi] at hbuilt
    rw [hbuilt]
    rfl
  · obtain rfl := List.length_eq_zero_iff.1 (show p.length = 0 by omega)
    rw [ha, hi] at hbuilt
    rw [hbuilt]
    rfl

/-! Inbound frames (R79, R80) -/

/-- The body of a status response is that of a frame whose payload is the status bytes and the extra ones. -/
theorem statusRespBody_eq_frameBody (c : Cfg) (a s0 s1 s2 s3 s4 s5 : Byte) (extra : Bytes) :
    statusRespBody c a s0 s1 s2 s3 s4 s5 extra =
      frameBody c (s0 :: s1 :: s2 :: s3 :: s4 :: s5 :: extra) a c.instrStatusResp := by
  have hl : 8 + extra.length = 2 + (s0 :: s1 :: s2 :: s3 :: s4 :: s5 :: extra).length := by
    simp only [List.length_cons]; omega
  rw [statusRespBody, hl]
  rfl

/-- A payload that holds the six status bytes (R79). -/
theorem exists_statusBytes {p : Bytes} (h : 6 ≤ p.length) :
    ∃ s0 s1 s2 s3 s4 s5 extra, p = s0 :: s1 :: s2 :: s3 :: s4 :: s5 :: extra := by
  match p with
  | s0 :: s1 :: s2 :: s3 :: s4 :: s5 :: extra => exact ⟨s0, s1, s2, s3, s4, s5, extra, rfl⟩
  | [] | [_] | [_, _] | [_, _, _] | [_, _, _, _] | [_, _, _, _, _] => simp at h

/-- A frame classified as a status response is a STATUS_RESP frame (R79, R80). -/
theorem exists_statusRespFrame {c : Cfg} {f : Bytes} (hf : isFrame c f = true) (hs : isStatusResponse c f = true) :
    ∃ a s0 s1 s2 s3 s4 s5 extra, extra.length ≤ 247 ∧ f = statusRespFrame c a s0 s1 s2 s3 s4 s5 extra := by
  obtain ⟨hv, hl, hi⟩ := (isStatusResponse_iff _ _).1 hs
  obtain ⟨p, hp, hbuilt⟩ := exists_sealFrame_of_valid hf hv (by omega)
  obtain ⟨s0, s1, s2, s3, s4, s5, extra, rfl⟩ := exists_statusBytes (show 6 ≤ p.length by omega)
  have hbyte : frameLength f < 256 := (byteAt f 2).isLt
  have hextra : extra.length ≤ 247 := by simp only [List.length_cons] at hp; omega
  refine ⟨frameAddress f, s0, s1, s2, s3, s4, s5, extra, hextra, ?_⟩
  rwa [statusRespFrame, statusRespBody_eq_frameBody, ← hi]

theorem decodeInbound_statusRespFrame (c : Cfg) (a s0 s1 s2 s3 s4 s5 : Byte) {extra : Bytes} (h : extra.length ≤ 247) :
    decodeInbound c (statusRespFrame c a s0 s1 s2 s3 s4 s5 extra) = .ok (.statusResp a s0 s1 s2 s3 s4 s5 extra) := by
  rw [decodeInbound, if_pos (isFrame_statusRespFrame c a s0 s1 s2 s3 s4 s5 h),
    if_pos (isStatusResponse_statusRespFrame c a s0 s1 s2 s3 s4 s5 h)]
  simp [statusRespFrame, statusRespBody, sealFrame]

theorem decodeInbound_other {c : Cfg} {f : Bytes} (hf : isFrame c f = true) (hs : isStatusResponse c f = false) :
    decodeInbound c f = .ok (.inboundOther f) := by
  rw [decodeInbound, if_pos hf, if_neg (by simp [hs])]

/-- Every frame is read as a well-formed instruction whose encoding it is (R80, R81, R82). -/
theorem exists_decodeInbound {c : Cfg} {f : Bytes} (hf : isFrame c f = true) :
    ∃ i, decodeInbound c f = .ok i ∧ i.wellFormed c = true ∧ encode c i = some ⟨.inbound, f⟩ := by
  cases hs : isStatusResponse c f with
  | true =>
    obtain ⟨a, s0, s1, s2, s3, s4, s5, extra, hle, rfl⟩ := exists_statusRespFrame hf hs
    exact ⟨_, decodeInbound_statusRespFrame c a s0 s1 s2 s3 s4 s5 hle, by simpa [Instr.wellFormed] using hle, rfl⟩
  | false => exact ⟨_, decodeInbound_other hf hs, by simp [Instr.wellFormed, hf, hs], rfl⟩

/-- What the inbound decoder reads is a frame. -/
theorem isFrame_of_decodeInbound {c : Cfg} {f : Bytes} {i : Instr} (h : decodeInbound c f = .ok i) :
    isFrame c f = true := by
  by_contra hf
  rw [decodeInbound, if_neg hf] at h
  cases h

/-- What the inbound decoder answers is well formed, and the frame is its encoding (R80, R81). -/
theorem encode_of_decodeInbound {c : Cfg} {f : Bytes} {i : Instr} (h : decodeInbound c f = .ok i) :
    i.wellFormed c = true ∧ encode c i = some ⟨.inbound, f⟩ := by
  obtain ⟨i', hd, hspec⟩ := exists_decodeInbound (isFrame_of_decodeInbound h)
  obtain rfl : i' = i := Except.ok.inj (hd.symm.trans h)
  exact hspec

/-! The three ports -/

/-- An instruction's encoding is read from the instruction's port (R90). -/
theorem port_of_encode {c : Cfg} {i : Instr} {w : Coded} (h : encode c i = some w) : i.port = some w.port := by
  have hport : (encode c i).map Coded.port = i.port := by cases i <;> rfl
  rw [← hport, h]
  rfl

/-- An instruction read from the outbound port is well formed: its operands' types say all. -/
theorem wellFormed_of_outbound (c : Cfg) {i : Instr} (h : i.port = some .outbound) : i.wellFormed c = true := by
  cases i with
  | openFrame | statusReq => rfl
  | _ => cases h

/-- Settles O52: events by `encode_of_isEvent`, frames by the lemma of their format. -/
theorem decodeInvertsEncode : Obligations.DecodeInvertsEncode := by
  unfold Obligations.DecodeInvertsEncode
  intro c i w hwf henc
  by_cases hi : i.isEvent = true
  · obtain ⟨k, bs, hrec, hops⟩ := encode_of_isEvent c hi
    obtain rfl := Option.some.inj (hrec.symm.trans henc)
    exact decodeEvent_eventRecord hops
  · cases i with
    | openFrame id =>
      obtain rfl := Option.some.inj henc
      exact decodeOutbound_openFrame c id
    | statusReq =>
      obtain rfl := Option.some.inj henc
      exact decodeOutbound_statusReq c
    | statusResp a s0 s1 s2 s3 s4 s5 extra =>
      obtain rfl := Option.some.inj henc
      exact decodeInbound_statusRespFrame c a s0 s1 s2 s3 s4 s5 (by simpa [Instr.wellFormed] using hwf)
    | inboundOther f =>
      obtain rfl := Option.some.inj henc
      obtain ⟨hf, hs⟩ : isFrame c f = true ∧ isStatusResponse c f = false := by simpa [Instr.wellFormed] using hwf
      exact decodeInbound_other hf hs
    | connect | disconnect | openCabinets | getStatus | resetStatus | connectDone | txDone | rx | lineLost | tick =>
      exact absurd rfl hi
    | _ => cases henc

/-- Settles O53: each frame decoder answers only what the frame is the encoding of. -/
theorem framesHaveOneMeaning : Obligations.FramesHaveOneMeaning := by
  unfold Obligations.FramesHaveOneMeaning
  rintro c i ⟨port, bs⟩ hport hdec
  cases port with
  | event => exact absurd rfl hport
  | inbound => exact (encode_of_decodeInbound hdec).2
  | outbound => exact encode_of_decodeOutbound hdec

/-- Settles O54: an event record decodes to an event, a frame to what it is the encoding of, and every frame decodes. -/
theorem decodedIsWellFormedAndNeverInternal : Obligations.DecodedIsWellFormedAndNeverInternal := by
  unfold Obligations.DecodedIsWellFormedAndNeverInternal
  refine ⟨?_, fun c f hf => ?_⟩
  · rintro c ⟨port, bs⟩ i hdec
    cases port with
    | event =>
      have hi : i.isEvent = true := Machine.decodeEvent_isEvent hdec
      exact ⟨wellFormed_of_isEvent c hi, by simpa [Instr.isEvent] using hi⟩
    | inbound =>
      obtain ⟨hwf, henc⟩ := encode_of_decodeInbound hdec
      exact ⟨hwf, port_of_encode henc⟩
    | outbound =>
      have hport := port_of_encode (encode_of_decodeOutbound hdec)
      exact ⟨wellFormed_of_outbound c hport, hport⟩
  · obtain ⟨i, hd, -⟩ := exists_decodeInbound hf
    exact ⟨i, hd⟩

/-- Settles O56: the event words are records of ten literal bytes, the frame is that of `decodeOutbound_openFrame`. -/
theorem writtenOutWordsDecode : Obligations.WrittenOutWordsDecode := by
  unfold Obligations.WrittenOutWordsDecode
  exact ⟨by rfl, by rfl, by rfl, by rfl, decodeOutbound_openFrame⟩

end Sys2Proof
end

section
/-! PROOFS. The wire instructions (R77, R78, R80): the send slot an outbound frame's row is, its three cases, and the
handling of a frame that is no status response. -/

namespace Sys2Proof.Machine

open Sys2Proof

/-! The send slot of an outbound row -/

section OpenSlot

variable {id : Byte} {j : OpenJob} {s : State}

/-- OPEN of a Ready job's current ID is the job's send slot. -/
theorem exec_openFrame_current (ha : s.active = some (.openJob j)) (hr : j.phase = .ready)
    (hid : j.ids[j.k]? = some id) : exec (.openFrame id) s = .next (sendOpen j id s).1 := by
  simp [exec, execOpenFrame, ha, hr, hid]

theorem jobStep_openJob_current (hid : j.ids[j.k]? = some id) : jobStep (.openJob j) s = sendOpen j id s := by
  simp [jobStep, hid]

/-- A free send slot on a connected line writes the open command (R203). -/
theorem sendOpen_connected (hn : s.nextSendAt ≤ s.now) (hc : s.conn = .connected) :
    sendOpen j id s =
      ((s.writeFrame [id] s.cfg.instrOpen).setActive (some (.openJob { j with phase := .awaitTx })), false) := by
  simp [sendOpen, Nat.not_lt.2 hn, hc]

end OpenSlot

section StatusSlot

variable {j : StatusJob} {s : State}

/-- STATUS_REQ of a Ready status job is the job's send slot. -/
theorem exec_statusReq_ready (ha : s.active = some (.statusJob j)) (hr : j.phase = .ready) :
    exec .statusReq s = .next (sendStatusReq j s).1 := by
  simp [exec, execStatusReq, ha, hr]

/-- Before NEXT_SEND_AT the slot waits (R209). -/
theorem sendStatusReq_early (hw : s.now < s.nextSendAt) : sendStatusReq j s = (s, false) := by
  simp [sendStatusReq, hw]

/-- A free send slot off the line resolves the job (R209). -/
theorem sendStatusReq_offline (hn : s.nextSendAt ≤ s.now) (hc : s.conn ≠ .connected) :
    sendStatusReq j s = (resolve j .notConnected s.settle, true) := by
  simp [sendStatusReq, Nat.not_lt.2 hn, hc]

/-- A free send slot on a connected line writes the status request (R209). -/
theorem sendStatusReq_connected (hn : s.nextSendAt ≤ s.now) (hc : s.conn = .connected) :
    sendStatusReq j s =
      ((s.writeFrame [] s.cfg.instrStatusReq).setActive (some (.statusJob { j with phase := .awaitTx })), false) := by
  simp [sendStatusReq, Nat.not_lt.2 hn, hc]

end StatusSlot

/-- Settles O16: the send slot of a connected line, with BUILD's frame written out. -/
theorem openWritesItsFrame : Obligations.OpenWritesItsFrame := by
  unfold Obligations.OpenWritesItsFrame
  intro id j s ha hr hid hn hc
  rw [exec_openFrame_current ha hr hid, jobStep_openJob_current hid, sendOpen_connected hn hc, openWrite_eq]
  exact ⟨rfl, rfl⟩

/-- Settles O18: the three cases of the status job's send slot. -/
theorem statusReqSlot : Obligations.StatusReqSlot := by
  unfold Obligations.StatusReqSlot
  intro j s ha hr
  rw [exec_statusReq_ready ha hr, jobStep]
  refine ⟨fun hw => ?_, fun hn hc => ?_, fun hn hc => ?_⟩
  · rw [sendStatusReq_early hw]
    exact ⟨rfl, rfl⟩
  · rw [sendStatusReq_offline hn hc, resolve_eq]
    have hreport : s.settle.statusReport .notConnected = .status false (s.cabMap.map Prod.snd) .notConnected := by
      simp [State.statusReport, State.snapshot, hc]
    rw [hreport]
    exact ⟨rfl, rfl⟩
  · rw [sendStatusReq_connected hn hc, statusWrite_eq]
    exact ⟨rfl, rfl⟩

/-- Settles O20: the frame is validated, which leaves its checksum in ACC, and then handled as one that is no status
response. -/
theorem inboundOtherIsDiscarded : Obligations.InboundOtherIsDiscarded := by
  unfold Obligations.InboundOtherIsDiscarded
  intro f s hwf
  obtain ⟨hf, hs⟩ : isFrame s.cfg f = true ∧ isStatusResponse s.cfg f = false := by
    simpa [Instr.wellFormed] using hwf
  have hne : f ≠ [] := by
    rintro rfl
    cases hf
  show Host.Outcome.next (receiveFrame f s) = _
  rw [receiveFrame_eq f s hne]
  exact congrArg _ (onFrame_other f (s.setAcc (checksumFn s.cfg.poly f.dropLast)) hs)

end Sys2Proof.Machine
end

section
/-! PROOFS. The Checksum Unit: the bits of a round and when rounds are injective (R107), what ROUND, CK_INIT, CK_BYTE
and CHECKSUM leave, and what sequences of ROUND and of CK_BYTE leave. -/

namespace Sys2Proof

/-! The bits of a round -/

/-- Bit `i` of a round is the bit above it, flipped where POLY has a 1 if bit 0 was 1 (R101). -/
theorem getLsbD_roundFn (p x : Byte) (i : Nat) :
    (roundFn p x).getLsbD i = (x.getLsbD (i + 1) ^^ (x.getLsbD 0 && p.getLsbD i)) := by
  unfold roundFn
  cases x.getLsbD 0 <;> simp [Nat.add_comm 1 i]

/-- The top bit of a round is bit 0 where POLY[7] is 1, and 0 where it is not. -/
theorem getLsbD_roundFn_seven (p x : Byte) : (roundFn p x).getLsbD 7 = (x.getLsbD 0 && p.getLsbD 7) := by
  rw [getLsbD_roundFn, BitVec.getLsbD_of_ge x (7 + 1) le_rfl, Bool.false_xor]

/-- With POLY[7] = 1 a round loses nothing: its top bit tells bit 0, and then each lower bit the one above it. -/
theorem roundFn_injective {p : Byte} (hp : p.getLsbD 7 = true) : Function.Injective (roundFn p) := by
  intro x y hxy
  have bit (i : Nat) : (roundFn p x).getLsbD i = (roundFn p y).getLsbD i := by rw [hxy]
  have h0 : x.getLsbD 0 = y.getLsbD 0 := by
    simpa only [getLsbD_roundFn_seven, hp, Bool.and_true] using bit 7
  refine BitVec.eq_of_getLsbD_eq fun i _ => ?_
  cases i with
  | zero => exact h0
  | succ i => simpa only [getLsbD_roundFn, h0, Bool.xor_left_inj] using bit i

/-- With POLY[7] = 1 any number of rounds loses nothing. -/
theorem rounds_injective {p : Byte} (hp : p.getLsbD 7 = true) (n : Nat) : Function.Injective (rounds p n) := by
  induction n with
  | zero => exact Function.injective_id
  | succ n ih => exact ih.comp (roundFn_injective hp)

/-- POLY shifted up over a 1: the byte that one round sends to 0 when POLY[7] is 0. -/
def roundKernel (p : Byte) : Byte := p <<< 1 ||| 1#8

theorem getLsbD_roundKernel_zero (p : Byte) : (roundKernel p).getLsbD 0 = true := by
  simp [roundKernel]

theorem getLsbD_roundKernel_succ (p : Byte) {i : Nat} (hi : i + 1 < 8) :
    (roundKernel p).getLsbD (i + 1) = p.getLsbD i := by
  simp [roundKernel, hi, BitVec.getLsbD_eq_getElem (show i < 8 by omega)]

theorem roundKernel_ne_zero (p : Byte) : roundKernel p ≠ 0#8 := by
  intro h
  have hbit := getLsbD_roundKernel_zero p
  rw [h] at hbit
  cases hbit

/-- With POLY[7] = 0 nothing of POLY is shifted out, so its XOR clears what the shift leaves. -/
theorem roundFn_roundKernel {p : Byte} (hp : p.getLsbD 7 = false) : roundFn p (roundKernel p) = 0#8 := by
  refine BitVec.eq_of_getLsbD_eq fun i hi => ?_
  rw [BitVec.getLsbD_zero]
  rcases Nat.lt_succ_iff_lt_or_eq.1 hi with hlt | rfl
  · rw [getLsbD_roundFn, getLsbD_roundKernel_succ p (by omega), getLsbD_roundKernel_zero, Bool.true_and, Bool.xor_self]
  · rw [getLsbD_roundFn_seven, hp, Bool.and_false]

/-! The checksum of a sequence -/

/-- A leading zero byte leaves the accumulator at 0 (R107 b). -/
theorem checksumFn_zero_cons (p : Byte) (bs : Bytes) : checksumFn p (0#8 :: bs) = checksumFn p bs := by
  simp [checksumFn, ckByteFn]

/-- One byte is put through eight rounds. -/
theorem checksumFn_singleton (p k : Byte) : checksumFn p [k] = rounds p 8 k := by
  simp [checksumFn, ckByteFn]

/-- Seven rounds shift the top bit down to bit 0; the eighth leaves POLY (R107 c). -/
theorem rounds_eight_top (p : Byte) : rounds p 8 0x80#8 = p := by
  simp [rounds, roundFn]

/-- A sequence followed by its checksum has checksum 0 (R107 d). -/
theorem checksumFn_concat_self (p : Byte) (bs : Bytes) : checksumFn p (bs ++ [checksumFn p bs]) = 0#8 := by
  rw [checksumFn_concat, ckByteFn, BitVec.xor_self, rounds_zero]

/-- With POLY[7] = 1 no other last byte gives 0 (R107 e). -/
theorem checksumFn_concat_eq_zero_iff {p : Byte} (hp : p.getLsbD 7 = true) (bs : Bytes) (k : Byte) :
    checksumFn p (bs ++ [k]) = 0#8 ↔ k = checksumFn p bs := by
  rw [checksumFn_concat, ckByteFn, ← rounds_zero p 8, (rounds_injective hp 8).eq_iff, BitVec.xor_eq_zero_iff]
  exact eq_comm

/-- With POLY[7] = 0 eight rounds send a byte other than 0 to 0. -/
theorem rounds_eight_roundKernel {p : Byte} (hp : p.getLsbD 7 = false) : rounds p 8 (roundKernel p) = 0#8 := by
  rw [rounds, roundFn_roundKernel hp, rounds_zero]

/-- With POLY[7] = 0 eight rounds are not injective: 0 and `roundKernel p` both go to 0. -/
theorem not_injective_rounds_eight {p : Byte} (hp : p.getLsbD 7 = false) : ¬ Function.Injective (rounds p 8) :=
  fun hinj => roundKernel_ne_zero p (hinj ((rounds_eight_roundKernel hp).trans (rounds_zero p 8).symm))

/-- Settles O4: (a) to (d) are the laws above; (e) rests on a round being injective exactly when POLY[7] = 1, its
failure on `roundKernel p`, appended to no bytes. -/
theorem checksumAlgebra : Obligations.ChecksumAlgebra := by
  unfold Obligations.ChecksumAlgebra
  intro p
  refine ⟨roundFn_xor p, checksumFn_zero_cons p, ?_, checksumFn_concat_self p,
    fun hp => ⟨?_, ?_⟩, fun hp => ⟨?_, ?_⟩⟩
  · rw [checksumFn_singleton, rounds_eight_top]
  · exact Finite.injective_iff_bijective.1 (rounds_injective hp 8)
  · exact checksumFn_concat_eq_zero_iff hp
  · exact fun hbij => not_injective_rounds_eight hp hbij.1
  · refine ⟨[], roundKernel p, ?_, roundKernel_ne_zero p⟩
    rw [List.nil_append, checksumFn_singleton, rounds_eight_roundKernel hp]

end Sys2Proof

namespace Sys2Proof.Machine

open Sys2Proof

/-! What the operations of the Checksum Unit leave -/

theorem exec_round (s : State) : exec .round s = .next { s with acc := roundFn s.cfg.poly s.acc } := rfl

theorem exec_ckInit (s : State) : exec .ckInit s = .next { s with acc := 0#8 } := rfl

theorem exec_ckByte (b : Byte) (s : State) :
    exec (.ckByte b) s = .next { s with acc := ckByteFn s.cfg.poly s.acc b } := rfl

theorem exec_checksum (bs : Bytes) (s : State) :
    exec (.checksum bs) s =
      .next { s with acc := checksumFn s.cfg.poly bs, ret := .byte (checksumFn s.cfg.poly bs) } := rfl

/-- An instruction that answers a next state hands it to the rest of the sequence. -/
theorem execAll_cons_of_next {i : Instr} {s t : State} (h : exec i s = .next t) (is : List Instr) :
    execAll (i :: is) s = execAll is t := by
  simp [execAll, h]

/-- ROUND `n` times leaves `n` rounds of ACC. -/
theorem execAll_replicate_round (n : Nat) (s : State) :
    execAll (List.replicate n .round) s = .next { s with acc := rounds s.cfg.poly n s.acc } := by
  induction n generalizing s with
  | zero => rfl
  | succ n ih =>
    rw [List.replicate_succ, execAll_cons_of_next (exec_round s), ih]
    rfl

/-- CK_BYTE of every byte in index order leaves ACC with the bytes absorbed from left to right. -/
theorem execAll_map_ckByte (bs : Bytes) (s : State) :
    execAll (bs.map .ckByte) s = .next { s with acc := bs.foldl (ckByteFn s.cfg.poly) s.acc } := by
  induction bs generalizing s with
  | nil => rfl
  | cons b bs ih =>
    rw [List.map_cons, execAll_cons_of_next (exec_ckByte b s), ih]
    rfl

/-- Settles O1: `exec_round`, with the round written out. -/
theorem roundShiftsRightAndXorsPoly : Obligations.RoundShiftsRightAndXorsPoly := by
  unfold Obligations.RoundShiftsRightAndXorsPoly
  intro s
  rw [exec_round, roundFn]

/-- Settles O2: both runs leave the eight rounds of ACC XOR `b`. -/
theorem ckByteIsXorThenEightRounds : Obligations.CkByteIsXorThenEightRounds := by
  unfold Obligations.CkByteIsXorThenEightRounds
  exact ⟨exec_ckInit, fun b s => ⟨ckByteFn s.cfg.poly s.acc b, exec_ckByte b s, execAll_replicate_round 8 _⟩⟩

/-- Settles O3: CK_INIT leaves 0, from which the CK_BYTEs absorb the bytes as CHECKSUM does. -/
theorem checksumAbsorbsBytesInOrder : Obligations.ChecksumAbsorbsBytesInOrder := by
  unfold Obligations.ChecksumAbsorbsBytesInOrder
  refine ⟨fun bs s => ⟨checksumFn s.cfg.poly bs, exec_checksum bs s, ?_⟩, exec_checksum []⟩
  rw [execAll_cons_of_next (exec_ckInit s), execAll_map_ckByte]
  rfl

end Sys2Proof.Machine
end

section
/-! PROOFS. The Frame Codec (R121 to R128): what BUILD, VALIDATE and HEXDUMP leave, validity as a checksum of 0, and the
shape of a hex dump. -/

namespace Sys2Proof

/-! Validity (R127) -/

/-- With POLY[7] = 1 the checksum of all the bytes tells validity. -/
theorem validateFn_eq_decide_checksumFn {p : Byte} (hp : p.getLsbD 7 = true) {f : Bytes} (hf : f ≠ []) :
    validateFn p f = decide (checksumFn p f = 0#8) := by
  obtain ⟨g, k, rfl⟩ := (List.eq_nil_or_concat' f).resolve_left hf
  rw [validateFn_concat, decide_eq_decide, checksumFn_concat_eq_zero_iff hp]
  exact eq_comm

/-! The hex dump (R128) -/

theorem hexdumpFn_eq_intercalate (bs : Bytes) : hexdumpFn bs = List.intercalate [' '] (bs.map upperhex2) := by
  induction bs using hexdumpFn.induct with
  | case1 => rfl
  | case2 b => exact List.intercalate_singleton.symm
  | case3 b b' rest ih => simp [hexdumpFn, ih, List.intercalate_cons_cons]

/-- Two digits for each byte and a space between two bytes. -/
theorem hexdumpFn_length (bs : Bytes) : (hexdumpFn bs).length = 3 * bs.length - 1 := by
  induction bs using hexdumpFn.induct with
  | case1 => rfl
  | case2 b => rfl
  | case3 b b' rest ih =>
    simp only [hexdumpFn, upperhex2, List.length_append, List.length_cons, List.length_nil, ih]
    omega

theorem hexDigit_of_lt {n : Nat} (h : n < 16) : "0123456789ABCDEF".toList[n]? = some (hexDigit n) := by
  revert n
  decide

end Sys2Proof

namespace Sys2Proof.Machine

open Sys2Proof

/-! What the operations of the Frame Codec leave -/

/-- BUILD leaves the sealed frame, its checksum in ACC (R121). -/
theorem exec_build_of_short {p : Bytes} (h : p.length ≤ 253) (a i : Byte) (s : State) :
    exec (.build p a i) s = .next { s with
      acc := checksumFn s.cfg.poly (frameBody s.cfg p a i)
      ret := .frame (sealFrame s.cfg.poly (frameBody s.cfg p a i)) } := by
  simp [exec, execBuild, buildFn, Nat.not_lt.2 h, State.runChecksum, State.setAcc, State.setRet]

/-- BUILD refuses a payload that LENGTH cannot count (R122). -/
theorem exec_build_of_long {p : Bytes} (h : 253 < p.length) (a i : Byte) (s : State) :
    exec (.build p a i) s = .refused .buildRefused := by
  simp [exec, execBuild, buildFn, h]

theorem exec_validate_nil (s : State) : exec (.validate []) s = .next { s with ret := .bool false } := rfl

/-- VALIDATE leaves the checksum of all bytes but the last in ACC (R124). -/
theorem exec_validate_of_ne_nil {f : Bytes} (hf : f ≠ []) (s : State) :
    exec (.validate f) s = .next { s with
      acc := checksumFn s.cfg.poly f.dropLast, ret := .bool (validateFn s.cfg.poly f) } := by
  simp [exec, execValidate, State.runValidate_of_ne_nil s hf, State.setRet]

theorem exec_hexdump (bs : Bytes) (s : State) :
    exec (.hexdump bs) s = .next { s with ret := .text (hexdumpFn bs) } := rfl

/-- Settles O5: a short payload gives a frame, its LENGTH and its length by the codec's laws; a long one is refused. -/
theorem buildLaysOutTheFrame : Obligations.BuildLaysOutTheFrame := by
  unfold Obligations.BuildLaysOutTheFrame
  refine fun p a i s => ⟨fun h => ?_, fun h => exec_build_of_long h a i s⟩
  obtain ⟨-, -, -, hlength⟩ := (isFrame_iff _ _).1 (isFrame_sealFrame s.cfg a i h)
  exact ⟨exec_build_of_short h a i s, frameLength_sealFrame s.cfg a i h, hlength⟩

/-- Settles O6: VALIDATE of no bytes, and of a sequence with a last byte. -/
theorem validateComparesLastByte : Obligations.ValidateComparesLastByte := by
  unfold Obligations.ValidateComparesLastByte
  refine ⟨exec_validate_nil, fun f k s => ?_⟩
  rw [exec_validate_of_ne_nil (by simp), List.dropLast_concat, validateFn_concat]

/-- Settles O7: the frame that BUILD leaves is sealed, and a sealed sequence validates. -/
theorem builtFrameValidates : Obligations.BuiltFrameValidates := by
  unfold Obligations.BuiltFrameValidates
  intro p a i s h
  refine ⟨_, _, _, exec_build_of_short h a i s, rfl, exec_validate_of_ne_nil (by simp [sealFrame]) _, ?_⟩
  exact congrArg Returned.bool (validateFn_sealFrame _ _)

/-- Settles O8: `validateFn_eq_decide_checksumFn`, over what the two operations leave. -/
theorem validityByZeroChecksum : Obligations.ValidityByZeroChecksum := by
  unfold Obligations.ValidityByZeroChecksum
  intro f s hp hf
  refine ⟨_, _, exec_validate_of_ne_nil hf s, exec_checksum f s, ?_, rfl⟩
  exact congrArg Returned.bool (validateFn_eq_decide_checksumFn hp hf)

/-- Settles O9: the dump is the joined pairs, and each half of a byte is a digit's index. -/
theorem hexdumpJoinsUppercasePairs : Obligations.HexdumpJoinsUppercasePairs := by
  unfold Obligations.HexdumpJoinsUppercasePairs
  refine fun bs s => ⟨_, exec_hexdump bs s, hexdumpFn_eq_intercalate bs, hexdumpFn_length bs, fun b => ?_⟩
  exact ⟨_, _, rfl, hexDigit_of_lt (by omega), hexDigit_of_lt (by omega)⟩

end Sys2Proof.Machine
end

section
/-! PROOFS. The frames written (R129): a job step writes a command frame or none, and no other operation writes one. -/

namespace Sys2Proof.Machine

open Sys2Proof

/-! Command frames -/

/-- The two frames the controller builds (R129). -/
inductive IsCommand (c : Cfg) : Bytes → Prop where
  /-- F-OPEN (R77). -/
  | openFrame (id : Byte) : IsCommand c (sealFrame c.poly (frameBody c [id] c.address c.instrOpen))
  /-- F-SREQ (R78). -/
  | statusReq : IsCommand c (sealFrame c.poly (frameBody c [] c.address c.instrStatusReq))

@[simp] theorem txFrames_append (os os' : List Output) : txFrames (os ++ os') = txFrames os ++ txFrames os' := by
  induction os with
  | nil => rfl
  | cons o os ih => cases o <;> simp [txFrames, ih]

@[simp] theorem txFrames_map_diag {α : Type} (d : α → Diag) (l : List α) :
    txFrames (l.map fun a => .diag (d a)) = [] := by
  induction l with
  | nil => rfl
  | cons a l ih => exact ih

/-- Every frame written from `s` to `t` is a command frame. -/
def WritesCommands (s t : State) : Prop :=
  ∃ fs, txFrames t.out = txFrames s.out ++ fs ∧ ∀ f ∈ fs, IsCommand t.cfg f

namespace WritesCommands

variable {s t u : State}

/-- Nothing is written. -/
theorem of_silent (h : txFrames t.out = txFrames s.out) : WritesCommands s t := ⟨[], by simp [h], by simp⟩

/-- An operation that writes nothing may follow. -/
theorem silent (h : WritesCommands s t) (hcfg : u.cfg = t.cfg) (hout : txFrames u.out = txFrames t.out) :
    WritesCommands s u := by
  obtain ⟨fs, hfs, hcmd⟩ := h
  exact ⟨fs, hout.trans hfs, hcfg ▸ hcmd⟩

/-- A command frame may follow. -/
theorem write (h : WritesCommands s t) (hcfg : u.cfg = t.cfg) {f : Bytes} (hf : IsCommand t.cfg f)
    (hout : u.out = t.out ++ [.txFrame f]) : WritesCommands s u := by
  obtain ⟨fs, hfs, hcmd⟩ := h
  refine ⟨fs ++ [f], by simp [hout, hfs, txFrames], fun g hg => ?_⟩
  rw [hcfg]
  rcases List.mem_append.1 hg with hg | hg
  · exact hcmd g hg
  · exact List.mem_singleton.1 hg ▸ hf

theorem dequeue (h : WritesCommands s t) : WritesCommands s (dequeue t) := by
  rcases dequeue_cases t with ⟨heq, -⟩ | ⟨j, rest, -, -, heq⟩ <;> rw [heq]
  · exact h
  · exact h.silent rfl rfl

/-- A job step writes an open command, a status request, or nothing (R201 to R203, R209). -/
theorem jobStep (h : WritesCommands s t) (j : Job) : WritesCommands s (jobStep j t).1 := by
  have ho := jobStep_outcome j t
  generalize (Machine.jobStep j t).1 = u at ho ⊢
  generalize (Machine.jobStep j t).2 = b at ho
  cases ho with
  | finish => exact h.silent rfl (by simp [txFrames])
  | wait => exact h
  | openFail => exact h.silent rfl rfl
  | openWrite j id => exact h.write rfl (.openFrame id) rfl
  | statusFail => exact h.silent rfl (by simp [txFrames])
  | statusWrite => exact h.write rfl .statusReq rfl

/-- Advance() after an operation that writes nothing (R196). -/
theorem advance (h : txFrames t.out = txFrames s.out) : WritesCommands s (advance t) :=
  advance_keeps (P := WritesCommands s) (fun _ hs => hs.dequeue) (fun _ j hs _ _ => hs.jobStep j) (of_silent h)

end WritesCommands

/-! What writes nothing -/

@[simp] theorem txFrames_resolve (j : StatusJob) (f : Freshness) (s : State) :
    txFrames (resolve j f s).out = txFrames s.out := by
  simp [resolve_eq, txFrames]

@[simp] theorem txFrames_answerConnect (s : State) (v : ResponseValue) :
    txFrames (s.answerConnect v).out = txFrames s.out := by
  unfold State.answerConnect
  split <;> simp [txFrames]

@[simp] theorem txFrames_onConnect (path : OpaqueValue) (baud ticket : Nat) (s : State) :
    txFrames (onConnect path baud ticket s).out = txFrames s.out := by
  unfold onConnect
  split <;> simp [txFrames]

@[simp] theorem txFrames_onDisconnect (ticket : Nat) (s : State) :
    txFrames (onDisconnect ticket s).out = txFrames s.out := by
  unfold onDisconnect
  dsimp only
  split <;> simp [txFrames]

@[simp] theorem txFrames_onOpenCabinets (ids : List Int) (ticket : Nat) (s : State) :
    txFrames (onOpenCabinets ids ticket s).out = txFrames s.out := by
  unfold onOpenCabinets
  split <;> simp [txFrames]

@[simp] theorem txFrames_onGetStatus (fresh : Bool) (ticket : Nat) (s : State) :
    txFrames (onGetStatus fresh ticket s).out = txFrames s.out := by
  unfold onGetStatus
  split <;> simp [txFrames]

@[simp] theorem txFrames_onResetStatus (ticket : Nat) (s : State) :
    txFrames (onResetStatus ticket s).out = txFrames s.out := by
  simp [onResetStatus, txFrames]

@[simp] theorem txFrames_onConnectDone (r : TransportResult) (s : State) :
    txFrames (onConnectDone r s).out = txFrames s.out := by
  unfold onConnectDone
  split
  · cases r <;> simp
  · simp [txFrames]

@[simp] theorem txFrames_openTxDone (j : OpenJob) (id : Byte) (r : TransportResult) (s : State) :
    txFrames (openTxDone j id r s).out = txFrames s.out := by
  cases r <;> rfl

@[simp] theorem txFrames_statusTxDone (j : StatusJob) (r : TransportResult) (s : State) :
    txFrames (statusTxDone j r s).out = txFrames s.out := by
  cases r with
  | err e => simp [statusTxDone]
  | ok =>
    unfold statusTxDone
    dsimp only
    split <;> simp

@[simp] theorem txFrames_onTxDone (r : TransportResult) (s : State) :
    txFrames (onTxDone r s).out = txFrames s.out := by
  unfold onTxDone
  split
  · split <;> simp [txFrames]
  · split <;> simp [txFrames]
  · simp [txFrames]

@[simp] theorem txFrames_onLineLost (s : State) : txFrames (onLineLost s).out = txFrames s.out := by
  unfold onLineLost
  split <;> simp [txFrames]

@[simp] theorem txFrames_onTick (n : Nat) (s : State) : txFrames (onTick n s).out = txFrames s.out := by
  unfold onTick checkTimeout
  split
  · split <;> simp [txFrames]
  · simp

@[simp] theorem txFrames_merge (d : List (Byte × CabState)) (s : State) :
    txFrames (merge d s).out = txFrames s.out := by
  obtain ⟨m, -, heq⟩ := merge_eq d s
  have h := noteResponse_outcome { s with cabMap := m }
  rw [heq]
  generalize noteResponse { s with cabMap := m } = t at h
  cases h with
  | fresh => simp [txFrames]
  | seen => rfl
  | none => rfl

@[simp] theorem txFrames_onFrame (f : Bytes) (valid : Bool) (s : State) :
    txFrames (onFrame f valid s).out = txFrames s.out := by
  rcases onFrame_cases f valid s with heq | ⟨-, -, -, d, heq⟩ <;> simp [heq, txFrames]

@[simp] theorem txFrames_onFrames (fs : List (Bytes × Bool)) (s : State) :
    txFrames (onFrames fs s).out = txFrames s.out := by
  induction fs generalizing s with
  | nil => rfl
  | cons p fs ih => exact (ih _).trans (txFrames_onFrame p.1 p.2 s)

@[simp] theorem txFrames_receiveFrame (f : Bytes) (s : State) :
    txFrames (receiveFrame f s).out = txFrames s.out := by
  simp [receiveFrame]

@[simp] theorem txFrames_reassemble (chunk : Bytes) (s : State) :
    txFrames (reassemble chunk s).1.out = txFrames s.out := by
  rcases reassemble_cases chunk s with ⟨-, heq⟩ | ⟨-, drops, fs, rest, -, heq⟩
  · simp [heq, txFrames]
  · simp [heq, afterCuts]

/-! Every instruction -/

/-- OPEN is the job step of the current ID, or nothing (R202, R203). -/
theorem execOpenFrame_writesCommands {id : Byte} {s t : State} (h : execOpenFrame id s = .next t) :
    WritesCommands s t := by
  rw [← Host.Outcome.next.inj h]
  split
  next j _ =>
    split
    next hcur =>
      obtain ⟨-, hid⟩ := hcur
      exact jobStep_openJob_current hid ▸ (WritesCommands.of_silent rfl).jobStep (.openJob j)
    next => exact .of_silent rfl
  next => exact .of_silent rfl

/-- STATUS_REQ is the job step of a Ready status job, or nothing (R209). -/
theorem execStatusReq_writesCommands {s t : State} (h : execStatusReq s = .next t) : WritesCommands s t := by
  rw [← Host.Outcome.next.inj h]
  split
  next j _ =>
    split
    · exact (WritesCommands.of_silent rfl).jobStep (.statusJob j)
    · exact .of_silent rfl
  next => exact .of_silent rfl

/-- BUILD returns its frame and writes none. -/
theorem execBuild_writesCommands {payload : Bytes} {address instruction : Byte} {s t : State}
    (h : execBuild payload address instruction s = .next t) : WritesCommands s t := by
  unfold execBuild at h
  split at h
  · cases h
  · exact .of_silent (Host.Outcome.next.inj h ▸ rfl)

/-- Every instruction writes command frames only. -/
theorem exec_writesCommands {i : Instr} {s t : State} (h : exec i s = .next t) : WritesCommands s t := by
  have silent {u : State} (heq : (.next u : Host.Outcome State Fault Refusal) = .next t)
      (hu : txFrames u.out = txFrames s.out) : WritesCommands s t := Host.Outcome.next.inj heq ▸ .of_silent hu
  have advances {u : State} (heq : (.next (advance u) : Host.Outcome State Fault Refusal) = .next t)
      (hu : txFrames u.out = txFrames s.out) : WritesCommands s t := Host.Outcome.next.inj heq ▸ .advance hu
  cases i with
  | openFrame id => exact execOpenFrame_writesCommands h
  | statusReq => exact execStatusReq_writesCommands h
  | statusResp => exact silent h (by simp)
  | inboundOther f => exact silent h (by simp)
  | connect path baud => exact advances h (by simp)
  | disconnect => exact advances h (by simp)
  | openCabinets ids => exact advances h (by simp)
  | getStatus fresh => exact advances h (by simp)
  | resetStatus => exact advances h (by simp)
  | connectDone r => exact advances h (by simp)
  | txDone r => exact advances h (by simp)
  | rx chunk => exact advances h (by simp [onRx])
  | lineLost => exact advances h (by simp)
  | tick n => exact advances h (by simp)
  | round => exact silent h rfl
  | ckInit => exact silent h rfl
  | ckByte b => exact silent h rfl
  | checksum bs => exact silent h rfl
  | build => exact execBuild_writesCommands h
  | validate f => exact silent h (by simp)
  | hexdump bs => exact silent h rfl
  | reassemble chunk => exact silent h (by simp)
  | decodeStatus f => exact silent h rfl

/-- Settles O43: the outputs only grow and CFG stays (O48), so the frames emitted are those `exec_writesCommands`
speaks of. -/
theorem onlyTwoFrameFormatsAreWritten : Obligations.OnlyTwoFrameFormatsAreWritten := by
  unfold Obligations.OnlyTwoFrameFormatsAreWritten
  intro i s t f h hf
  obtain ⟨hcfg, -, -, -, os, hos⟩ := cfgFixedTimeByTickBufferByReassembler i s t h
  obtain ⟨fs, hfs, hcmd⟩ := exec_writesCommands h
  rw [hcfg] at hcmd
  have hemitted : txFrames (emitted s t) = fs := by
    rw [← hos, txFrames_append] at hfs
    rw [emitted, ← hos, List.drop_left, List.append_cancel_left hfs]
  cases hcmd f (hemitted ▸ hf) with
  | openFrame id => exact .inl ⟨id, rfl⟩
  | statusReq => exact .inr rfl

end Sys2Proof.Machine
end

section
/-! PROOFS. The reassembler (R141 to R155): what a call and a sequence of chunks leave is `afterCuts` of the one way
`Cuts` takes their stream apart, so each statement is a fact about `Cuts`. -/

namespace Sys2Proof.Machine

open Sys2Proof

/-! What `afterCuts` leaves -/

section AfterCuts

variable (s : State) (drops drops' : List Byte) (fs fs' : List Bytes) (rest rest' : Bytes)

@[simp] theorem afterCuts_cfg : (afterCuts s drops fs rest).1.cfg = s.cfg := rfl

@[simp] theorem afterCuts_rxbuf : (afterCuts s drops fs rest).1.rxbuf = rest := rfl

@[simp] theorem afterCuts_out :
    (afterCuts s drops fs rest).1.out = s.out ++ drops.map fun b => .diag (.resyncDrop b) := rfl

@[simp] theorem afterCuts_frames :
    (afterCuts s drops fs rest).2 = fs.map fun f => (f, validateFn s.cfg.poly f) := rfl

/-- A call that drops and cuts nothing leaves the state. -/
theorem afterCuts_stop : afterCuts s [] [] s.rxbuf = (s, []) := by
  simp [afterCuts, accAfter_nil]

/-- ACC after two runs of validations, one after the other. -/
theorem accAfter_append (c : Cfg) (acc : Byte) : accAfter c (accAfter c acc fs) fs' = accAfter c acc (fs ++ fs') := by
  cases hl : fs'.getLast? <;> simp [accAfter, List.getLast?_append, hl]

/-- Two calls, one after the other, leave the state that one call with the drops and frames of both leaves. -/
theorem afterCuts_afterCuts :
    (afterCuts (afterCuts s drops fs rest).1 drops' fs' rest').1 =
      (afterCuts s (drops ++ drops') (fs ++ fs') rest').1 := by
  simp [afterCuts, accAfter_append]

end AfterCuts

/-! One call (R142, R151, R154) -/

section Call

variable {chunk : Bytes} {s : State} {drops : List Byte} {fs : List Bytes} {rest : Bytes}

/-- Any way of taking the stream apart by `Cuts` is the one that the call follows. -/
theorem reassemble_eq_afterCuts (hcap : s.rxbuf.length + chunk.length ≤ s.cfg.bufCap)
    (hcuts : Cuts s.cfg (s.rxbuf ++ chunk) drops fs rest) : reassemble chunk s = afterCuts s drops fs rest := by
  obtain ⟨drops', fs', rest', hcuts', heq⟩ := reassemble_cuts chunk s hcap
  obtain ⟨rfl, rfl, rfl⟩ := hcuts.unique hcuts'
  exact heq

/-- Every call leaves a residue, one that overflows the empty buffer (R151). -/
theorem reassemble_residue (chunk : Bytes) (s : State) :
    Residue (reassemble chunk s).1.cfg (reassemble chunk s).1.rxbuf := by
  rcases reassemble_cases chunk s with ⟨-, heq⟩ | ⟨-, drops, fs, rest, hcuts, heq⟩
  · rw [heq]
    exact .inl (by simp)
  · rw [heq]
    exact hcuts.residue

/-- On a residue within the cap the empty chunk does nothing (R154). -/
theorem reassemble_nil (hres : Residue s.cfg s.rxbuf) (hcap : s.rxbuf.length ≤ s.cfg.bufCap) :
    reassemble [] s = (s, []) := by
  have hcuts : Cuts s.cfg (s.rxbuf ++ []) [] [] s.rxbuf := by
    rw [List.append_nil]
    exact .of_residue hres
  rw [reassemble_eq_afterCuts (by simpa using hcap) hcuts, afterCuts_stop]

end Call

/-- Settles O10: `reassemble_overflow`, and below the cap `reassemble_cuts`, whose signals are all `ResyncDrop`. -/
theorem overflowClearsBuffer : Obligations.OverflowClearsBuffer := by
  unfold Obligations.OverflowClearsBuffer
  intro chunk s
  constructor
  · intro hover
    simp only [exec, execReassemble, reassemble_overflow chunk s hover]
    rfl
  · intro hcap
    obtain ⟨drops, fs, rest, -, heq⟩ := reassemble_cuts chunk s hcap
    refine ⟨_, rfl, fun n => ?_⟩
    simp [emitted, heq]

/-- Settles O11: `reassemble_cuts`, whose `afterCuts` is the state the statement writes out. -/
theorem reassembleCutsTheStream : Obligations.ReassembleCutsTheStream := by
  unfold Obligations.ReassembleCutsTheStream
  intro chunk s hcap
  obtain ⟨drops, fs, rest, hcuts, heq⟩ := reassemble_cuts chunk s hcap
  refine ⟨drops, fs, rest, hcuts, ?_⟩
  simp only [exec, execReassemble, heq]
  rfl

/-- Settles O12: `reassemble_residue` and `reassemble_nil`. -/
theorem residueAndEmptyChunk : Obligations.ResidueAndEmptyChunk := by
  unfold Obligations.ResidueAndEmptyChunk
  refine ⟨reassemble_residue, fun s hres hcap => ?_⟩
  simp only [exec, execReassemble, reassemble_nil hres hcap]
  rfl

/-! Chunks one after another (R150) -/

/-- Chunks without overflow do what one call on their concatenation would: their stream is taken apart by `Cuts`. -/
theorem feed_cuts {cs : List Bytes} {s : State} (hres : Residue s.cfg s.rxbuf) (hno : NoOverflow cs s) :
    ∃ drops fs rest, Cuts s.cfg (s.rxbuf ++ cs.flatten) drops fs rest ∧ feed cs s = afterCuts s drops fs rest := by
  induction cs generalizing s with
  | nil =>
    refine ⟨[], [], s.rxbuf, ?_, (afterCuts_stop s).symm⟩
    rw [List.flatten_nil, List.append_nil]
    exact .of_residue hres
  | cons c cs ih =>
    obtain ⟨hcap, hno⟩ := hno
    obtain ⟨drops, fs, rest, hcuts, heq⟩ := reassemble_cuts c s hcap
    rw [heq] at hno
    obtain ⟨drops', fs', rest', hcuts', heq'⟩ := ih hcuts.residue hno
    refine ⟨drops ++ drops', fs ++ fs', rest', ?_, ?_⟩
    · rw [List.flatten_cons, ← List.append_assoc]
      exact hcuts.append hcuts'
    · rw [feed, heq, heq', afterCuts_afterCuts]
      exact Prod.ext rfl (by simp)

/-- Any way of taking the stream of the chunks apart by `Cuts` is the one that they follow. -/
theorem feed_eq_afterCuts {cs : List Bytes} {s : State} {drops : List Byte} {fs : List Bytes} {rest : Bytes}
    (hres : Residue s.cfg s.rxbuf) (hno : NoOverflow cs s)
    (hcuts : Cuts s.cfg (s.rxbuf ++ cs.flatten) drops fs rest) : feed cs s = afterCuts s drops fs rest := by
  obtain ⟨drops', fs', rest', hcuts', heq⟩ := feed_cuts hres hno
  obtain ⟨rfl, rfl, rfl⟩ := hcuts.unique hcuts'
  exact heq

/-- A whole frame is cut and leaves nothing (R146). -/
theorem Cuts.of_isFrame {c : Cfg} {f : Bytes} (h : Sys2Proof.isFrame c f = true) : Cuts c f [] [f] [] := by
  obtain ⟨hlen, h0, h1, htotal⟩ := (isFrame_iff c f).1 h
  have hcut : Cuts c (f ++ []) [] [f] [] := .cut hlen h0 h1 htotal (.short (by simp))
  rwa [List.append_nil] at hcut

/-- Settles O13: `Cuts` takes the stream apart in one way, and chunks follow it however they split the stream. -/
theorem chunkSplitIndependence : Obligations.ChunkSplitIndependence := by
  unfold Obligations.ChunkSplitIndependence
  constructor
  · intro cs ds s hres hcs hds hsame
    obtain ⟨drops, fs, rest, hcuts, heq⟩ := feed_cuts hres hcs
    have heq' : feed ds s = afterCuts s drops fs rest := feed_eq_afterCuts hres hds (hsame ▸ hcuts)
    simp [heq, heq']
  · rintro f cs s hf hbuf hno rfl
    have hres : Residue s.cfg s.rxbuf := .inl (by simp [hbuf])
    have hcuts : Cuts s.cfg (s.rxbuf ++ cs.flatten) [] [cs.flatten] [] := by
      rw [hbuf]
      exact .of_isFrame hf
    simp [feed_eq_afterCuts hres hno hcuts]

/-! A frame behind garbage (R144, R155) -/

/-- Garbage without a header pair is dropped byte by byte up to the frame behind it. Its last byte and the frame's first
make no pair, for that first byte is HDR0 and not HDR1. -/
theorem Cuts.of_garbage_isFrame {c : Cfg} {g f : Bytes} (hdr : c.hdr0 ≠ c.hdr1) (hf : Sys2Proof.isFrame c f = true)
    (hg : ∀ i, i + 1 < g.length → ¬ (byteAt g i = c.hdr0 ∧ byteAt g (i + 1) = c.hdr1)) :
    Cuts c (g ++ f) g [f] [] := by
  induction g with
  | nil => exact .of_isFrame hf
  | cons b g ih =>
    obtain ⟨hlen, h0, -, -⟩ := (isFrame_iff c f).1 hf
    have hnot : b ≠ c.hdr0 ∨ byteAt (g ++ f) 0 ≠ c.hdr1 := by
      cases g with
      | nil => exact .inr fun h1 => hdr (h0.symm.trans h1)
      | cons b' g => exact Decidable.not_and_iff_not_or_not.1 (hg 0 (by simp))
    have htail (i : Nat) (hi : i + 1 < g.length) : ¬ (byteAt g i = c.hdr0 ∧ byteAt g (i + 1) = c.hdr1) :=
      hg (i + 1) (Nat.succ_lt_succ hi)
    have hmin : 4 ≤ (b :: (g ++ f)).length := by
      rw [List.length_cons, List.length_append]
      omega
    exact .drop hmin hnot (ih htail)

/-- Settles O14: the call follows the cuts of `Cuts.of_garbage_isFrame`. -/
theorem frameBehindGarbageIsCut : Obligations.FrameBehindGarbageIsCut := by
  unfold Obligations.FrameBehindGarbageIsCut
  intro g f s hdr hf hbuf hcap hg
  have hcuts : Cuts s.cfg (s.rxbuf ++ (g ++ f)) g [f] [] := by
    rw [hbuf]
    exact .of_garbage_isFrame hdr hf hg
  simp [reassemble_eq_afterCuts (by simpa [hbuf] using hcap) hcuts]

end Sys2Proof.Machine
end

section
/-! PROOFS. The Status Decoder (R161 to R167): when DECODE_STATUS answers `None` and which lanes it answers otherwise, and
that a merge uses of a status response its six status bytes only. -/

namespace Sys2Proof.Machine

open Sys2Proof

/-! The lanes of a frame (R161) -/

/-- Bit `id mod 8` of byte `id div 8`, for the 48 IDs in order. -/
theorem statusLanes_eq_map (l : Bytes) :
    statusLanes l = (List.range 48).map fun id =>
      (BitVec.ofNat 8 id, bitState ((byteAt l (id / 8)).getLsbD (id % 8))) := rfl

theorem byteAt_drop (f : Bytes) (n i : Nat) : byteAt (f.drop n) i = byteAt f (n + i) := by
  simp [byteAt, List.getD_eq_getElem?_getD]

/-- A short frame, or one with another instruction, holds no lanes (R162, R163). -/
theorem decodeStatusFn_eq_none {c : Cfg} {f : Bytes} (h : frameLength f < 8 ∨ frameInstruction f ≠ c.instrStatusResp) :
    decodeStatusFn c f = none := by
  unfold decodeStatusFn
  split
  next => rfl
  next h8 => rw [if_pos (h.resolve_left h8)]

/-- The lanes of a long enough frame with the instruction of a status response are those of its payload. -/
theorem decodeStatusFn_eq_some {c : Cfg} {f : Bytes} (h8 : 8 ≤ frameLength f)
    (hi : frameInstruction f = c.instrStatusResp) (hl : 11 ≤ f.length) :
    decodeStatusFn c f = some (statusLanes (f.drop 5)) := by
  unfold decodeStatusFn statusLanes
  rw [if_neg (by omega), if_neg (not_not_intro hi), if_neg (by omega)]
  simp only [byteAt_drop]

theorem exec_decodeStatus (f : Bytes) (s : State) :
    exec (.decodeStatus f) s = .next { s with ret := .statuses (decodeStatusFn s.cfg f) } := rfl

/-- Settles O15: without lanes the result is `None`; otherwise they are the 48 lanes of the bytes from offset 5 on, which
a frame of LENGTH ≥ 8 is long enough to hold. -/
theorem decodeStatusUnpacksLanes : Obligations.DecodeStatusUnpacksLanes := by
  unfold Obligations.DecodeStatusUnpacksLanes
  intro f s hwf
  rw [exec_decodeStatus]
  refine ⟨fun h => by rw [decodeStatusFn_eq_none h], fun ⟨h8, hi⟩ => ⟨statusLanes (f.drop 5), ?_, ?_, fun id hid => ?_⟩⟩
  · obtain ⟨-, hlen⟩ : 4 ≤ f.length ∧ f.length = frameLength f + 4 := by simpa [Instr.wellFormed] using hwf
    rw [decodeStatusFn_eq_some h8 hi (by omega)]
  · simp [statusLanes_eq_map]
  · simp [statusLanes_eq_map, hid, byteAt_drop, bitState]

/-! What a merge depends on (R165, R166) -/

/-- What a response does to the active job does not depend on ACC or on the outputs before it. -/
theorem noteResponse_appends (s : State) :
    ∃ (u : State) (os : List Output), ∀ acc out,
      noteResponse { s with acc := acc, out := out } = { u with acc := acc, out := out ++ os } := by
  rcases ha : s.active with _ | _ | j
  · exact ⟨s, [], fun _ _ => by simp [noteResponse, ha]⟩
  · exact ⟨s, [], fun _ _ => by simp [noteResponse, ha]⟩
  · cases hp : j.phase with
    | ready => exact ⟨s, [], fun _ _ => by simp [noteResponse, ha, hp]⟩
    | awaitTx =>
      exact ⟨s.setActive (some (.statusJob { j with respSeen := true })), [], fun _ _ => by
        simp [noteResponse, hp, State.setActive]⟩
    | awaiting =>
      exact ⟨s.setActive none, [.response j.ticket (s.statusReport .fresh)], fun _ _ => by
        simp [noteResponse, hp, resolve_eq, State.setActive, State.statusReport, State.snapshot]⟩

/-- What a merge does depends on the lanes and on the state, but not on ACC or on the outputs before it. -/
theorem merge_appends (d : List (Byte × CabState)) (s : State) :
    ∃ (u : State) (os : List Output), ∀ acc out,
      merge d { s with acc := acc, out := out } = { u with acc := acc, out := out ++ os } := by
  obtain ⟨u, os, h⟩ := noteResponse_appends (d.foldl (fun t p => t.mapMark p.1 p.2) s)
  refine ⟨u, os, fun acc out => ?_⟩
  rw [← h, merge]
  exact congrArg noteResponse (List.foldl_hom (fun t : State => { t with acc := acc, out := out }) fun _ _ => rfl)

/-- A STATUS_RESP leaves its checksum in ACC, is reported, and its lanes are merged (R79, R211, R212). -/
theorem exec_statusResp (a s0 s1 s2 s3 s4 s5 : Byte) {extra : Bytes} (s : State) (h : extra.length ≤ 247) :
    exec (.statusResp a s0 s1 s2 s3 s4 s5 extra) s = .next (merge (statusLanes [s0, s1, s2, s3, s4, s5]) { s with
      acc := checksumFn s.cfg.poly (statusRespBody s.cfg a s0 s1 s2 s3 s4 s5 extra)
      out := s.out ++ [.frame (statusRespFrame s.cfg a s0 s1 s2 s3 s4 s5 extra) true] }) := by
  rw [exec, execStatusResp, receiveFrame_statusResp _ _ _ _ _ _ _ _ h, State.setAcc, State.emit]

/-- Settles O21: the frame's lanes are those of its six status bytes, and the rest of it reaches only ACC and the frame
report, on which the merge does not depend. -/
theorem addressAndExtraBytesDoNotMatter : Obligations.AddressAndExtraBytesDoNotMatter := by
  unfold Obligations.AddressAndExtraBytesDoNotMatter
  intro a a' s0 s1 s2 s3 s4 s5 extra extra' s he he'
  obtain ⟨u, os, hmerge⟩ := merge_appends (statusLanes [s0, s1, s2, s3, s4, s5]) s
  rw [exec_statusResp a _ _ _ _ _ _ s he, exec_statusResp a' _ _ _ _ _ _ s he', hmerge, hmerge]
  exact ⟨_, _, rfl, rfl, rfl, rfl, by simp⟩

end Sys2Proof.Machine
end

section
/-! PROOFS. Advance() (R196 to R203, R209): its equation case by case, what it appends to the outputs, where it leaves
NEXT_SEND_AT, and the states it leaves alone. Every event is an operation and then Advance() (R181). -/

namespace Sys2Proof.Machine

open Sys2Proof

/-! Appended outputs -/

/-- From `s` to `t` outputs are only appended, and each of them is in the class `C`. -/
def Appends (C : Output → Prop) (s t : State) : Prop := ∃ os, t.out = s.out ++ os ∧ ∀ o ∈ os, C o

namespace Appends

variable {C D : Output → Prop} {s t u : State}

/-- Nothing is appended. -/
theorem of_out_eq (h : t.out = s.out) : Appends C s t := ⟨[], by simp [h], by simp⟩

theorem refl (s : State) : Appends C s s := .of_out_eq rfl

theorem trans (h : Appends C s t) (h' : Appends C t u) : Appends C s u := by
  obtain ⟨os, hos, hC⟩ := h
  obtain ⟨os', hos', hC'⟩ := h'
  exact ⟨os ++ os', by rw [hos', hos, List.append_assoc], List.forall_mem_append.2 ⟨hC, hC'⟩⟩

theorem mono (h : Appends C s t) (hCD : ∀ o, C o → D o) : Appends D s t := by
  obtain ⟨os, hos, hC⟩ := h
  exact ⟨os, hos, fun o ho => hCD o (hC o ho)⟩

/-- One output is appended. -/
theorem one {o : Output} (ho : C o) (h : t.out = s.out ++ [o]) : Appends C s t := ⟨[o], h, by simpa using ho⟩

/-- What was emitted is in the class. -/
theorem emitted (h : Appends C s t) : ∀ o ∈ emitted s t, C o := by
  obtain ⟨os, hos, hC⟩ := h
  rwa [Machine.emitted, hos, List.drop_left]

end Appends

/-! The equation of Advance() (R196) -/

/-- Without a job, nothing. -/
theorem advance_of_no_job {s : State} (ha : s.active = none) (hq : s.queue = []) : advance s = s := by
  rw [advance_eq, dequeue_of_empty hq, ha]

/-- A queued job becomes active (R197). -/
theorem advance_of_queued {s : State} {j : Job} {rest : List Job} (ha : s.active = none) (hq : s.queue = j :: rest) :
    advance s = advance { s with active := some j, queue := rest } := by
  rw [← dequeue_of_cons ha hq, advance_eq, advance_eq (dequeue s), dequeue_idem]

/-- A job that awaits an event is left alone. -/
theorem advance_of_not_ready {s : State} {j : Job} (ha : s.active = some j) (hr : j.isReady = false) :
    advance s = s := by
  rw [advance_eq, dequeue_of_active ha, ha]
  simp [hr]

/-- A Ready job makes a step, and the loop goes on while jobs progress. -/
theorem advance_of_ready {s : State} {j : Job} (ha : s.active = some j) (hr : j.isReady = true) :
    advance s = if (jobStep j s).2 then advance (jobStep j s).1 else (jobStep j s).1 := by
  rw [advance_eq, dequeue_of_active ha, ha]
  simp [hr]

/-- Settles O34: the equations above, and OPEN and STATUS_REQ as the send slots that job steps are. -/
theorem advanceIsTheLoop : Obligations.AdvanceIsTheLoop := by
  unfold Obligations.AdvanceIsTheLoop
  intro s
  refine ⟨advance_of_no_job, fun _ _ => advance_of_queued, fun _ => advance_of_not_ready, fun _ => advance_of_ready,
    fun j id ha hr hid => ?_, fun j ha hr => exec_statusReq_ready ha hr⟩
  rw [jobStep_openJob_current hid]
  exact exec_openFrame_current ha hr hid

/-- The step of a batch without a current ID is its end (R201). -/
theorem jobStep_openJob_finished {j : OpenJob} (hid : j.ids[j.k]? = none) (s : State) :
    jobStep (.openJob j) s = (finishOpen j s, true) := by
  simp [jobStep, hid]

/-- Settles O35: past the last ID there is no current one. -/
theorem finishedBatchIsAnswered : Obligations.FinishedBatchIsAnswered := by
  unfold Obligations.FinishedBatchIsAnswered
  intro j s ha hr hk
  have hstep := jobStep_openJob_finished (List.getElem?_eq_none hk.ge) s
  refine ⟨hstep, ?_⟩
  rw [advance_of_ready ha (by simp [Job.isReady, hr]), hstep]
  rfl

/-! What Advance() leaves -/

/-- The outputs of Advance(): frames written and responses. -/
def IsJobOutput (o : Output) : Prop := (∃ f, o = .txFrame f) ∨ ∃ tk v, o = .response tk v

theorem dequeue_out (s : State) : (dequeue s).out = s.out := by
  rcases dequeue_cases s with ⟨heq, -⟩ | ⟨j, rest, -, -, heq⟩ <;> rw [heq]

theorem jobStep_appends (j : Job) (s : State) : Appends IsJobOutput s (jobStep j s).1 := by
  have h := jobStep_outcome j s
  generalize (jobStep j s).1 = t at h
  generalize (jobStep j s).2 = progressed at h
  cases h with
  | finish => exact .one (.inr ⟨_, _, rfl⟩) rfl
  | wait => exact .refl s
  | openFail => exact .of_out_eq rfl
  | openWrite => exact .one (.inl ⟨_, rfl⟩) rfl
  | statusFail => exact .one (.inr ⟨_, _, rfl⟩) rfl
  | statusWrite => exact .one (.inl ⟨_, rfl⟩) rfl

theorem advance_appends (s : State) : Appends IsJobOutput s (advance s) :=
  advance_keeps (P := Appends IsJobOutput s) (fun t h => h.trans (.of_out_eq (dequeue_out t)))
    (fun t j h _ _ => h.trans (jobStep_appends j t)) (.refl s)

/-- NEXT_SEND_AT is where it was or at the end of a settle time that starts now (R198). -/
def SettledFrom (s t : State) : Prop :=
  KeepsFrame s t ∧ (t.nextSendAt = s.nextSendAt ∨ t.nextSendAt = s.now + s.cfg.settleTime)

theorem jobStep_settledFrom {s t : State} (h : SettledFrom s t) (j : Job) : SettledFrom s (jobStep j t).1 := by
  obtain ⟨hk, hn⟩ := h
  have settled : t.now + t.cfg.settleTime = s.now + s.cfg.settleTime := by rw [hk.now, hk.cfg]
  have hstep := jobStep_outcome j t
  generalize (jobStep j t).1 = u at hstep
  generalize (jobStep j t).2 = progressed at hstep
  cases hstep with
  | finish => exact ⟨hk.trans ⟨rfl, rfl, rfl, List.prefix_append _ _⟩, hn⟩
  | wait => exact ⟨hk, hn⟩
  | openFail => exact ⟨hk.trans ⟨rfl, rfl, rfl, List.prefix_rfl⟩, .inr settled⟩
  | openWrite => exact ⟨hk.trans ⟨rfl, rfl, rfl, List.prefix_append _ _⟩, hn⟩
  | statusFail => exact ⟨hk.trans ⟨rfl, rfl, rfl, List.prefix_append _ _⟩, .inr settled⟩
  | statusWrite => exact ⟨hk.trans ⟨rfl, rfl, rfl, List.prefix_append _ _⟩, hn⟩

theorem dequeue_settledFrom {s t : State} (h : SettledFrom s t) : SettledFrom s (dequeue t) := by
  obtain ⟨hk, hn⟩ := h
  rcases dequeue_cases t with ⟨heq, -⟩ | ⟨j, rest, -, -, heq⟩ <;> rw [heq]
  · exact ⟨hk, hn⟩
  · exact ⟨hk.silent rfl rfl rfl rfl, hn⟩

theorem advance_settledFrom (s : State) : SettledFrom s (advance s) :=
  advance_keeps (P := SettledFrom s) (fun _ => dequeue_settledFrom) (fun _ j h _ _ => jobStep_settledFrom h j)
    ⟨.refl s, .inl rfl⟩

/-- Settles O37: the frame of Advance(), with the class of the outputs and the values of NEXT_SEND_AT. -/
theorem advanceFrame : Obligations.AdvanceFrame := by
  unfold Obligations.AdvanceFrame
  intro s
  obtain ⟨n, os, heq⟩ := advance_frame s
  obtain ⟨os', hos', hclass⟩ := advance_appends s
  obtain rfl : os = os' := List.append_cancel_left ((congrArg State.out heq).symm.trans hos')
  exact ⟨n, os, heq, (advance_settledFrom s).2, hclass⟩

@[simp] theorem advance_conn (s : State) : (advance s).conn = s.conn := by
  obtain ⟨n, os, heq⟩ := advance_frame s
  rw [heq]

/-! Events (R181) -/

/-- What an event does before its Advance(). -/
def eventOp (i : Instr) (s : State) : State :=
  match i with
  | .connect path baud => onConnect path baud s.nextTicket s.takeTicket
  | .disconnect => onDisconnect s.nextTicket s.takeTicket
  | .openCabinets ids => onOpenCabinets ids s.nextTicket s.takeTicket
  | .getStatus fresh => onGetStatus fresh s.nextTicket s.takeTicket
  | .resetStatus => onResetStatus s.nextTicket s.takeTicket
  | .connectDone r => onConnectDone r s
  | .txDone r => onTxDone r s
  | .rx chunk => onRx chunk s
  | .lineLost => onLineLost s
  | .tick n => onTick n s
  | _ => s

/-- Every event is its operation and then Advance(). -/
theorem exec_of_isEvent {i : Instr} (hi : i.isEvent = true) (s : State) :
    exec i s = .next (advance (eventOp i s)) := by
  cases i <;> cases hi <;> rfl

/-- What a step is: idle, or the pending event's operation and then Advance(), off the inbox without its record. -/
theorem step_cases {s t : State} (h : step s = .next t) :
    s.pending = none ∧ t = s ∨ ∃ i rest, s.pending = some i ∧ i.isEvent = true ∧
      exec i { s with inbox := rest } = .next t ∧ t = advance (eventOp i { s with inbox := rest }) := by
  cases hin : s.inbox with
  | nil =>
    rw [step_of_idle hin] at h
    exact .inl ⟨by simp [State.pending, hin], (Host.Outcome.next.inj h).symm⟩
  | cons r rest =>
    cases hd : decodeEvent r with
    | error e =>
      rw [step_of_undecodable hin hd] at h
      cases h
    | ok i =>
      have hi := decodeEvent_isEvent hd
      rw [step_of_event hin hd] at h
      refine .inr ⟨i, rest, by simp [State.pending, hin, hd, Except.toOption], hi, h, ?_⟩
      rw [exec_of_isEvent hi] at h
      exact (Host.Outcome.next.inj h).symm

/-- The invariant's parts do not speak of the inbox. -/
theorem State.Inv.sound_inbox {s : State} (h : s.Inv) (rest : List Bytes) :
    ({ s with inbox := rest } : State).Sound := by
  obtain ⟨hb, hc, hm, hj⟩ := (s.inv_iff.1 h).1
  exact ⟨hb, hc, hm, hj⟩

/-- Settles O36: an event ends with Advance(), which ends quiescent. -/
theorem advanceRunsAsFarAsItCan : Obligations.AdvanceRunsAsFarAsItCan := by
  unfold Obligations.AdvanceRunsAsFarAsItCan
  refine ⟨fun i s t hi h => ?_, fun _ => advance_of_quiescent⟩
  rw [exec_of_isEvent hi] at h
  exact Host.Outcome.next.inj h ▸ advance_quiescent _

end Sys2Proof.Machine
end

section
/-! PROOFS. CONN (R184 to R195): every operation but those of its four events leaves it, and each of the four moves it
by its row of the transition table. -/

namespace Sys2Proof.Machine

open Sys2Proof

/-! What leaves CONN -/

@[simp] theorem sendOpen_conn (j : OpenJob) (id : Byte) (s : State) : (sendOpen j id s).1.conn = s.conn := by
  unfold sendOpen
  split
  · rfl
  · split <;> simp

@[simp] theorem resolve_conn (j : StatusJob) (f : Freshness) (s : State) : (resolve j f s).conn = s.conn := rfl

@[simp] theorem sendStatusReq_conn (j : StatusJob) (s : State) : (sendStatusReq j s).1.conn = s.conn := by
  unfold sendStatusReq
  split
  · rfl
  · split <;> simp

@[simp] theorem onOpenCabinets_conn (ids : List Int) (ticket : Nat) (s : State) :
    (onOpenCabinets ids ticket s).conn = s.conn := by
  unfold onOpenCabinets
  split <;> rfl

@[simp] theorem onGetStatus_conn (fresh : Bool) (ticket : Nat) (s : State) :
    (onGetStatus fresh ticket s).conn = s.conn := by
  unfold onGetStatus
  split <;> rfl

@[simp] theorem statusTxDone_conn (j : StatusJob) (r : TransportResult) (s : State) :
    (statusTxDone j r s).conn = s.conn := by
  cases r with
  | err e => rfl
  | ok =>
    unfold statusTxDone
    dsimp only
    split <;> rfl

@[simp] theorem openTxDone_conn (j : OpenJob) (id : Byte) (r : TransportResult) (s : State) :
    (openTxDone j id r s).conn = s.conn := by
  cases r <;> rfl

@[simp] theorem onTxDone_conn (r : TransportResult) (s : State) : (onTxDone r s).conn = s.conn := by
  unfold onTxDone
  split
  · split <;> simp
  · split <;> simp
  · rfl

@[simp] theorem onTick_conn (n : Nat) (s : State) : (onTick n s).conn = s.conn := by
  unfold onTick checkTimeout
  split
  · split <;> simp
  · simp

@[simp] theorem merge_conn (d : List (Byte × CabState)) (s : State) : (merge d s).conn = s.conn := by
  obtain ⟨m, -, heq⟩ := merge_eq d s
  rw [heq, noteResponse_frame]

@[simp] theorem onFrame_conn (f : Bytes) (valid : Bool) (s : State) : (onFrame f valid s).conn = s.conn := by
  rcases onFrame_cases f valid s with heq | ⟨-, -, -, d, heq⟩ <;> simp [heq]

@[simp] theorem onFrames_conn (fs : List (Bytes × Bool)) (s : State) : (onFrames fs s).conn = s.conn := by
  induction fs generalizing s with
  | nil => rfl
  | cons p fs ih => exact (ih _).trans (onFrame_conn p.1 p.2 s)

@[simp] theorem receiveFrame_conn (f : Bytes) (s : State) : (receiveFrame f s).conn = s.conn := by
  simp [receiveFrame]

@[simp] theorem reassemble_conn (chunk : Bytes) (s : State) : (reassemble chunk s).1.conn = s.conn := by
  rcases reassemble_cases chunk s with ⟨-, heq⟩ | ⟨-, drops, fs, rest, -, heq⟩
  · rw [heq]
  · rw [heq, afterCuts]

/-! The four events that move CONN -/

/-- CONNECT opens the port off the line only (R190, R191). -/
theorem onConnect_conn (path : OpaqueValue) (baud ticket : Nat) (s : State) :
    (onConnect path baud ticket s).conn = connAfter s.conn (.connect path baud) := by
  cases hc : s.conn <;> simp [onConnect, hc, connAfter]

/-- DISCONNECT always ends Disconnected (R194). -/
@[simp] theorem onDisconnect_conn (ticket : Nat) (s : State) : (onDisconnect ticket s).conn = .disconnected := rfl

/-- CONNECT_DONE ends Connecting (R192, R193, R217). -/
theorem onConnectDone_conn (r : TransportResult) (s : State) :
    (onConnectDone r s).conn = connAfter s.conn (.connectDone r) := by
  cases hc : s.conn <;> cases r <;> simp [onConnectDone, hc, connAfter]

/-- LINE_LOST ends Connected (R195). -/
theorem onLineLost_conn (s : State) : (onLineLost s).conn = connAfter s.conn .lineLost := by
  cases hc : s.conn <;> simp [onLineLost, hc, connAfter]

/-! Every instruction -/

theorem execOpenFrame_conn {id : Byte} {s t : State} (h : execOpenFrame id s = .next t) : t.conn = s.conn := by
  rw [← Host.Outcome.next.inj h]
  split
  · split <;> simp
  · rfl

theorem execStatusReq_conn {s t : State} (h : execStatusReq s = .next t) : t.conn = s.conn := by
  rw [← Host.Outcome.next.inj h]
  split
  · split <;> simp
  · rfl

theorem execBuild_conn {payload : Bytes} {address instruction : Byte} {s t : State}
    (h : execBuild payload address instruction s = .next t) : t.conn = s.conn := by
  unfold execBuild at h
  split at h
  · cases h
  · rw [← Host.Outcome.next.inj h]
    rfl

/-- Settles O46: the four events by their rows of the table, every other instruction as one that leaves CONN. -/
theorem connFollowsTheTransitionTable : Obligations.ConnFollowsTheTransitionTable := by
  unfold Obligations.ConnFollowsTheTransitionTable
  intro i s t h
  have becomes {u : State} {c : ConnState} (heq : (.next u : Host.Outcome State Fault Refusal) = .next t)
      (hu : u.conn = c) : t.conn = c := Host.Outcome.next.inj heq ▸ hu
  cases i with
  | openFrame id => exact execOpenFrame_conn h
  | statusReq => exact execStatusReq_conn h
  | statusResp => exact becomes h (by simp [connAfter])
  | inboundOther f => exact becomes h (by simp [connAfter])
  | connect path baud => exact becomes h ((advance_conn _).trans (onConnect_conn path baud _ s.takeTicket))
  | disconnect => exact becomes h (by simp [connAfter])
  | openCabinets ids => exact becomes h (by simp [connAfter])
  | getStatus fresh => exact becomes h (by simp [connAfter])
  | resetStatus => exact becomes h (by simp [connAfter, onResetStatus])
  | connectDone r => exact becomes h ((advance_conn _).trans (onConnectDone_conn r s))
  | txDone r => exact becomes h (by simp [connAfter])
  | rx chunk => exact becomes h (by simp [connAfter, onRx])
  | lineLost => exact becomes h ((advance_conn _).trans (onLineLost_conn s))
  | tick n => exact becomes h (by simp [connAfter])
  | round => exact becomes h rfl
  | ckInit => exact becomes h rfl
  | ckByte b => exact becomes h rfl
  | checksum bs => exact becomes h rfl
  | build => exact execBuild_conn h
  | validate f => exact becomes h (by simp [connAfter])
  | hexdump bs => exact becomes h rfl
  | reassemble chunk => exact becomes h (by simp [connAfter])
  | decodeStatus f => exact becomes h rfl

end Sys2Proof.Machine
end

section
/-! PROOFS. The host calls (R190 to R216): what each does before its Advance(), branch by branch, and the first
structural failure of a batch (R199, R200). -/

namespace Sys2Proof.Machine

open Sys2Proof

/-! Connecting (R190, R191, R194) -/

section Connect

variable {s : State}

theorem onConnect_offline (hc : s.conn = .disconnected ∨ s.conn = .faulted) (path : OpaqueValue) (baud t : Nat) :
    onConnect path baud t s = ((s.setConn .connecting).setConnectTicket (some t)).emit (.openPort path baud) :=
  if_pos hc

theorem onConnect_refused (hc : s.conn = .connecting ∨ s.conn = .connected) (path : OpaqueValue) (baud t : Nat) :
    onConnect path baud t s = s.respond t (.connectError .alreadyConnected) :=
  if_neg (by rcases hc with hc | hc <;> simp [hc])

/-- A pending connect is aborted (R194). -/
theorem onDisconnect_pending {ct : Nat} (hc : s.conn = .connecting) (hp : s.connectTicket = some ct) (t : Nat) :
    onDisconnect t s = { s with
      conn := .disconnected, connectTicket := none
      out := s.out ++ [.response ct (.connectError .aborted), .closePort, .response t .ok] } := by
  simp [onDisconnect, hc, State.answerConnect_of_pending hp, State.setConn, State.emit, State.respond]

/-- Without a pending connect the port is closed (R194). -/
theorem onDisconnect_idle (hc : s.conn ≠ .connecting) (t : Nat) :
    onDisconnect t s = { s with conn := .disconnected, out := s.out ++ [.closePort, .response t .ok] } := by
  simp [onDisconnect, hc, State.setConn, State.emit, State.respond]

end Connect

/-- Settles O23: the two branches of `connect`. -/
theorem connectOpensThePortOrIsRefused : Obligations.ConnectOpensThePortOrIsRefused := by
  unfold Obligations.ConnectOpensThePortOrIsRefused
  intro path baud s
  rw [exec_of_isEvent rfl, eventOp]
  refine ⟨fun hc => ?_, fun hc => ?_⟩
  · rw [onConnect_offline (s := s.takeTicket) hc]
    rfl
  · rw [onConnect_refused (s := s.takeTicket) hc]
    rfl

/-- Settles O24: a connect is pending exactly while Connecting, so the two branches of `disconnect` are told apart by
the ticket. -/
theorem disconnectAlwaysSucceeds : Obligations.DisconnectAlwaysSucceeds := by
  unfold Obligations.DisconnectAlwaysSucceeds
  intro s hiff
  rw [exec_of_isEvent rfl, eventOp]
  cases hp : s.connectTicket with
  | some ct =>
    rw [onDisconnect_pending (s := s.takeTicket) (hiff.1 (by simp [hp])) hp]
    simp [State.takeTicket]
  | none =>
    have hc : s.conn ≠ .connecting := fun hc => by simpa [hp] using hiff.2 hc
    rw [onDisconnect_idle (s := s.takeTicket) hc]
    simp [State.takeTicket, hp]

/-! Opening cabinets (R199, R200) -/

/-- The IDs, as a proposition (R199). -/
theorem isCabinetId_iff (v : Int) : isCabinetId v = true ↔ 0 ≤ v ∧ v ≤ 255 := by
  simp [isCabinetId]

/-- The byte of an ID is that ID (R86). -/
theorem idByte_toNat {v : Int} (h : 0 ≤ v ∧ v ≤ 255) : ((idByte v).toNat : Int) = v := by
  rw [idByte, BitVec.toNat_ofInt]
  omega

/-- The bytes of valid IDs are those IDs. -/
theorem map_idByte_toNat {ids : List Int} (h : ∀ v ∈ ids, 0 ≤ v ∧ v ≤ 255) :
    (ids.map idByte).map (fun b => (b.toNat : Int)) = ids := by
  rw [List.map_map]
  exact (List.map_congr_left fun v hv => idByte_toNat (h v hv)).trans (List.map_id ids)

/-- A batch that is not empty is checked for the first ID outside the range. -/
theorem structuralError_of_ne_nil {ids : List Int} (h : ids ≠ []) :
    structuralError ids = (ids.find? fun v => !isCabinetId v).map .outOfRange := by
  rw [structuralError, if_neg (by simpa using h)]
  cases ids.find? fun v => !isCabinetId v <;> rfl

/-- The first ID outside the range is reported (R200, R251). -/
theorem structuralError_outOfRange {pre post : List Int} {v : Int} (hpre : ∀ x ∈ pre, 0 ≤ x ∧ x ≤ 255)
    (hv : ¬ (0 ≤ v ∧ v ≤ 255)) : structuralError (pre ++ v :: post) = some (.outOfRange v) := by
  have hskip : pre.find? (fun x => !isCabinetId x) = none :=
    List.find?_eq_none.2 fun x hx => by simp [(isCabinetId_iff x).2 (hpre x hx)]
  have hfound : isCabinetId v = false := Bool.eq_false_iff.2 (mt (isCabinetId_iff v).1 hv)
  simp [structuralError_of_ne_nil, List.find?_append, hskip, hfound]

/-- A batch has no structural error when it is not empty and all its IDs are in the range (R199). -/
theorem structuralError_eq_none_iff (ids : List Int) :
    structuralError ids = none ↔ ids ≠ [] ∧ ∀ v ∈ ids, 0 ≤ v ∧ v ≤ 255 := by
  by_cases hne : ids = []
  · simp [hne, structuralError]
  · simp [structuralError_of_ne_nil hne, hne, isCabinetId_iff]

theorem onOpenCabinets_error {ids : List Int} {e : StructuralError} (h : structuralError ids = some e) (t : Nat)
    (s : State) : onOpenCabinets ids t s = s.respond t (.structuralInputError e) := by
  rw [onOpenCabinets, h]

theorem onOpenCabinets_valid {ids : List Int} (h : structuralError ids = none) (t : Nat) (s : State) :
    onOpenCabinets ids t s = s.enqueue (.openJob
      { ticket := t, ids := ids.map idByte, k := 0, opened := [], failed := [], phase := .ready }) := by
  rw [onOpenCabinets, h]

/-- Settles O25: the structural check finds emptiness first, then the first ID outside the range; without an error the
batch is queued. -/
theorem openCabinetsValidatesThenQueues : Obligations.OpenCabinetsValidatesThenQueues := by
  unfold Obligations.OpenCabinetsValidatesThenQueues
  refine ⟨fun s => ?_, fun pre post v s hpre hv => ?_,
    fun ids s hne hids => ⟨ids.map idByte, map_idByte_toNat hids, ?_⟩⟩
  · rw [exec_of_isEvent rfl, eventOp, onOpenCabinets_error (e := .empty) rfl]
    rfl
  · rw [exec_of_isEvent rfl, eventOp, onOpenCabinets_error (structuralError_outOfRange hpre hv)]
    rfl
  · rw [exec_of_isEvent rfl, eventOp, onOpenCabinets_valid ((structuralError_eq_none_iff ids).2 ⟨hne, hids⟩)]
    rfl

/-! Status (R207, R208, R216) -/

/-- Settles O26: the cached report is a response, the fresh one a queued job. -/
theorem getStatusCachedOrQueued : Obligations.GetStatusCachedOrQueued := by
  unfold Obligations.GetStatusCachedOrQueued
  exact fun s => ⟨exec_of_isEvent rfl s, exec_of_isEvent rfl s⟩

/-- Settles O27: the operation is one update. -/
theorem resetStatusClearsTheMapOnly : Obligations.ResetStatusClearsTheMapOnly := by
  unfold Obligations.ResetStatusClearsTheMapOnly
  exact exec_of_isEvent rfl

end Sys2Proof.Machine
end

section
/-! PROOFS. The transport and timer events (R183, R192 to R195, R204, R205, R210, R215, R217): what each does before its
Advance(), branch by branch; a completion that answers nothing is signalled and nothing else. -/

namespace Sys2Proof.Machine

open Sys2Proof

/-! Completions of `connect` (R192, R193, R217) -/

section ConnectDone

variable {s : State} {ct : Nat}

theorem onConnectDone_ok (hc : s.conn = .connecting) (hp : s.connectTicket = some ct) :
    onConnectDone .ok s =
      { s with conn := .connected, connectTicket := none, out := s.out ++ [.response ct .connectedOk] } := by
  rw [onConnectDone, if_pos hc]
  exact State.answerConnect_of_pending (s := s.setConn .connected) hp _

theorem onConnectDone_err (hc : s.conn = .connecting) (hp : s.connectTicket = some ct) (e : OpaqueValue) :
    onConnectDone (.err e) s =
      { s with
        conn := .faulted, connectTicket := none
        out := s.out ++ [.response ct (.connectError (.transport e))] } := by
  rw [onConnectDone, if_pos hc]
  exact State.answerConnect_of_pending (s := s.setConn .faulted) hp _

theorem onConnectDone_spurious (hc : s.conn ≠ .connecting) (r : TransportResult) :
    onConnectDone r s = s.signal (.spuriousTransportEvent .connectDone) := if_neg hc

end ConnectDone

/-- Settles O28: the two results of a pending `connect`. -/
theorem connectDoneAnswersTheCall : Obligations.ConnectDoneAnswersTheCall := by
  unfold Obligations.ConnectDoneAnswersTheCall
  intro ct s hc hp
  refine ⟨?_, fun e => ?_⟩
  · rw [exec_of_isEvent rfl, eventOp, onConnectDone_ok hc hp]
  · rw [exec_of_isEvent rfl, eventOp, onConnectDone_err hc hp]

/-! Completions of a write (R204, R205, R210, R217) -/

section TxDone

variable {s : State}

theorem onTxDone_openJob {j : OpenJob} {id : Byte} (ha : s.active = some (.openJob j)) (hp : j.phase = .awaitTx)
    (hid : j.ids[j.k]? = some id) (r : TransportResult) : onTxDone r s = openTxDone j id r s := by
  simp [onTxDone, ha, hp, hid]

theorem onTxDone_statusJob {j : StatusJob} (ha : s.active = some (.statusJob j)) (hp : j.phase = .awaitTx)
    (r : TransportResult) : onTxDone r s = statusTxDone j r s := by
  simp [onTxDone, ha, hp]

/-- Without an outstanding write the completion answers nothing (R217). -/
theorem onTxDone_spurious (hw : s.writeOutstanding = false) (r : TransportResult) :
    onTxDone r s = s.signal (.spuriousTransportEvent .txDone) := by
  unfold onTxDone
  cases ha : s.active with
  | none => rfl
  | some j =>
    have hj : j.isAwaitTx = false := by simpa [State.writeOutstanding, ha] using hw
    cases j with
    | openJob j =>
      have hp : j.phase = .ready := by cases hp : j.phase <;> simp [Job.isAwaitTx, hp] at hj ⊢
      simp [hp]
    | statusJob j => simp_all [Job.isAwaitTx]

/-- An outstanding write is a status job's, or an open job's for its current ID (R31, R32). -/
theorem onTxDone_outstanding (hs : s.Sound) (hw : s.writeOutstanding = true) (r : TransportResult) :
    (∃ j id, s.active = some (.openJob j) ∧ j.ids[j.k]? = some id ∧ onTxDone r s = openTxDone j id r s) ∨
    ∃ j, s.active = some (.statusJob j) ∧ onTxDone r s = statusTxDone j r s := by
  obtain ⟨j, ha, hj⟩ := s.writeOutstanding_iff.1 hw
  cases j with
  | openJob j =>
    have hp : j.phase = .awaitTx := by simpa [Job.isAwaitTx] using hj
    have hok : j.Ok := hs.jobs.active_ok _ ha
    have hid := List.getElem?_eq_getElem (hok.awaitTx_lt hp)
    exact .inl ⟨j, _, ha, hid, onTxDone_openJob ha hp hid r⟩
  | statusJob j =>
    have hp : j.phase = .awaitTx := by simpa [Job.isAwaitTx] using hj
    exact .inr ⟨j, ha, onTxDone_statusJob ha hp r⟩

end TxDone

/-- Settles O29: the two results of an open write, each one update. -/
theorem txDoneRecordsTheCabinet : Obligations.TxDoneRecordsTheCabinet := by
  unfold Obligations.TxDoneRecordsTheCabinet
  intro j id s ha hp hid
  refine ⟨?_, fun e => ?_⟩
  · rw [exec_of_isEvent rfl, eventOp, onTxDone_openJob ha hp hid]
    rfl
  · rw [exec_of_isEvent rfl, eventOp, onTxDone_openJob ha hp hid]
    rfl

/-- Settles O30: a failed request, one answered already, and one to wait for. -/
theorem txDoneArmsTheTimeout : Obligations.TxDoneArmsTheTimeout := by
  unfold Obligations.TxDoneArmsTheTimeout
  intro j s ha hp
  refine ⟨fun e => ?_, fun hseen => ?_, fun hseen => ?_⟩
  · rw [exec_of_isEvent rfl, eventOp, onTxDone_statusJob ha hp]
    rfl
  · rw [exec_of_isEvent rfl, eventOp, onTxDone_statusJob ha hp, statusTxDone, if_pos hseen]
    rfl
  · rw [exec_of_isEvent rfl, eventOp, onTxDone_statusJob ha hp, statusTxDone, if_neg (by simp [hseen])]
    rfl

/-! The line (R195) -/

/-- Quiescence does not depend on CONN or on the outputs. -/
theorem State.Quiescent.of_conn_out {s : State} (h : s.Quiescent) (c : ConnState) (os : List Output) :
    ({ s with conn := c, out := os } : State).Quiescent := ⟨h.idle, h.paced, h.unfinished⟩

/-- Settles O32: both branches leave a quiescent state, on which Advance() does nothing. -/
theorem lineLostFaultsAConnectedEngine : Obligations.LineLostFaultsAConnectedEngine := by
  unfold Obligations.LineLostFaultsAConnectedEngine
  intro s hq
  rw [exec_of_isEvent rfl, eventOp]
  refine ⟨fun hc => ?_, fun hc => ?_⟩
  · rw [onLineLost, if_pos hc]
    exact congrArg _ (advance_of_quiescent (hq.of_conn_out _ _))
  · rw [onLineLost, if_neg hc, advance_of_quiescent hq]

/-! The timer (R183, R215) -/

theorem State.advanceTime_eq (s : State) (t : Nat) : s.advanceTime t = { s with now := max s.now t } := by
  unfold State.advanceTime
  split
  next h => rw [Nat.max_eq_right h.le]
  next h => rw [Nat.max_eq_left (Nat.le_of_not_lt h)]

/-- A status job's deadline has come when it is armed and not later than the time. -/
theorem StatusJob.expired_iff (j : StatusJob) (now : Nat) :
    j.expired now = true ↔ j.phase = .awaiting ∧ ∃ d, j.deadline = some d ∧ d ≤ now := by
  unfold StatusJob.expired
  split <;> simp_all

/-- The timeout check of a status job whose deadline has come. -/
theorem checkTimeout_expired {s : State} {j : StatusJob} (ha : s.active = some (.statusJob j))
    (he : j.expired s.now = true) : checkTimeout s = resolve j .timedOut (s.signal .frameTimeout) := by
  simp [checkTimeout, ha, he]

/-- No status job's deadline has come: the timeout check does nothing. -/
theorem checkTimeout_idle {s : State} (h : ∀ j, s.active = some (.statusJob j) → j.expired s.now = false) :
    checkTimeout s = s := by
  unfold checkTimeout
  split
  next j ha => simp [h j ha]
  next => rfl

/-- Settles O33: the time is set, then the timeout check is one of the two above. -/
theorem tickAdvancesTimeAndTimesOut : Obligations.TickAdvancesTimeAndTimesOut := by
  unfold Obligations.TickAdvancesTimeAndTimesOut
  intro t s
  rw [exec_of_isEvent rfl, eventOp, onTick, State.advanceTime_eq]
  refine ⟨fun j d ha hp hd hle => ?_, fun h => ?_⟩
  · rw [checkTimeout_expired (s := { s with now := max s.now t }) ha ((j.expired_iff _).2 ⟨hp, d, hd, hle⟩)]
    simp [resolve_eq, State.signal, State.emit, State.statusReport, State.snapshot]
  · rw [checkTimeout_idle fun j ha => ?_]
    rw [Bool.eq_false_iff, ne_eq, StatusJob.expired_iff]
    rintro ⟨hp, d, hd, hle⟩
    exact absurd (h j d ha hp hd) (Nat.not_lt.2 hle)

end Sys2Proof.Machine
end

section
/-! PROOFS. What an event's operation emits before its Advance(): no batch result, and the signal of a spurious
completion only where the transport broke its duty (R201, R217, R257). -/

namespace Sys2Proof.Machine

open Sys2Proof

/-- An output that is neither the result of a batch nor the signal of a spurious completion. -/
def Output.isPlain : Output → Bool
  | .response _ (.openResult _ _) => false
  | .diag (.spuriousTransportEvent _) => false
  | _ => true

@[simp] theorem Output.isPlain_frame (f : Bytes) (v : Bool) : (Output.frame f v).isPlain = true := rfl

/-- From `s` to `t` only plain outputs are appended. -/
abbrev AppendsPlain (s t : State) : Prop := Appends (fun o => o.isPlain = true) s t

theorem resolve_appendsPlain (j : StatusJob) (f : Freshness) (s : State) : AppendsPlain s (resolve j f s) :=
  .one (o := .response j.ticket (s.statusReport f)) rfl rfl

theorem signal_appendsPlain {d : Diag} (hd : (Output.diag d).isPlain = true) (s : State) :
    AppendsPlain s (s.signal d) := .one hd rfl

theorem answerConnect_appendsPlain {v : ResponseValue} (hv : ∀ t, (Output.response t v).isPlain = true) (s : State) :
    AppendsPlain s (s.answerConnect v) := by
  unfold State.answerConnect
  split
  · exact .refl s
  · exact .one (hv _) rfl

/-! Host calls -/

theorem onConnect_appendsPlain (path : OpaqueValue) (baud t : Nat) (s : State) :
    AppendsPlain s (onConnect path baud t s) := by
  unfold onConnect
  split
  · exact .one (o := .openPort path baud) rfl rfl
  · exact .one (o := .response t (.connectError .alreadyConnected)) rfl rfl

theorem onDisconnect_appendsPlain (t : Nat) (s : State) : AppendsPlain s (onDisconnect t s) := by
  have aborted : AppendsPlain s (if s.conn = .connecting then s.answerConnect (.connectError .aborted) else s) := by
    split
    · exact answerConnect_appendsPlain (fun _ => rfl) s
    · exact .refl s
  refine aborted.trans ⟨[.closePort, .response t .ok], ?_, by simp [Output.isPlain]⟩
  simp [onDisconnect]

theorem onOpenCabinets_appendsPlain (ids : List Int) (t : Nat) (s : State) :
    AppendsPlain s (onOpenCabinets ids t s) := by
  unfold onOpenCabinets
  split
  next e _ => exact .one (o := .response t (.structuralInputError e)) rfl rfl
  next => exact .of_out_eq rfl

theorem onGetStatus_appendsPlain (fresh : Bool) (t : Nat) (s : State) : AppendsPlain s (onGetStatus fresh t s) := by
  unfold onGetStatus
  split
  · exact .of_out_eq rfl
  · exact .one (o := .response t (s.statusReport .notRequested)) rfl rfl

theorem onResetStatus_appendsPlain (t : Nat) (s : State) : AppendsPlain s (onResetStatus t s) :=
  .one (o := .response t .ok) rfl rfl

/-! Transport and timer events -/

/-- A completion of a pending `connect`. -/
theorem onConnectDone_appendsPlain {s : State} (hc : s.conn = .connecting) (r : TransportResult) :
    AppendsPlain s (onConnectDone r s) := by
  unfold onConnectDone
  rw [if_pos hc]
  cases r with
  | ok => exact answerConnect_appendsPlain (fun _ => rfl) (s.setConn .connected)
  | err e => exact answerConnect_appendsPlain (fun _ => rfl) (s.setConn .faulted)

theorem statusTxDone_appendsPlain (j : StatusJob) (r : TransportResult) (s : State) :
    AppendsPlain s (statusTxDone j r s) := by
  cases r with
  | err e => exact resolve_appendsPlain j _ s.settle
  | ok =>
    unfold statusTxDone
    dsimp only
    split
    · exact resolve_appendsPlain j _ s.settle
    · exact .of_out_eq rfl

/-- A completion of an outstanding write. -/
theorem onTxDone_appendsPlain {s : State} (hs : s.Sound) (hw : s.writeOutstanding = true) (r : TransportResult) :
    AppendsPlain s (onTxDone r s) := by
  rcases onTxDone_outstanding hs hw r with ⟨j, id, -, -, heq⟩ | ⟨j, -, heq⟩
  · rw [heq]
    cases r <;> exact .of_out_eq rfl
  · rw [heq]
    exact statusTxDone_appendsPlain j r s

theorem onLineLost_appendsPlain (s : State) : AppendsPlain s (onLineLost s) := by
  unfold onLineLost
  split
  · exact signal_appendsPlain rfl _
  · exact .refl s

theorem onTick_appendsPlain (n : Nat) (s : State) : AppendsPlain s (onTick n s) := by
  have timed : AppendsPlain s (s.advanceTime n) := .of_out_eq (by simp)
  refine timed.trans ?_
  unfold onTick checkTimeout
  split
  · split
    · exact (signal_appendsPlain rfl _).trans (resolve_appendsPlain _ _ _)
    · exact .refl _
  · exact .refl _

/-! Inbound bytes -/

theorem noteResponse_appendsPlain (s : State) : AppendsPlain s (noteResponse s) := by
  have h := noteResponse_outcome s
  generalize noteResponse s = t at h
  cases h with
  | fresh j => exact .one (o := .response j.ticket (s.statusReport .fresh)) rfl rfl
  | seen => exact .of_out_eq rfl
  | none => exact .refl s

theorem merge_appendsPlain (d : List (Byte × CabState)) (s : State) : AppendsPlain s (merge d s) := by
  obtain ⟨m, -, heq⟩ := merge_eq d s
  rw [heq]
  exact noteResponse_appendsPlain { s with cabMap := m }

theorem discardDiag_isPlain (c : Cfg) (f : Bytes) (v : Bool) : (Output.diag (discardDiag c f v)).isPlain = true := by
  have h := discardDiag_ne_spurious c f v
  cases hd : discardDiag c f v with
  | spuriousTransportEvent k => exact absurd hd (h k)
  | _ => rfl

theorem onFrame_appendsPlain (f : Bytes) (valid : Bool) (s : State) : AppendsPlain s (onFrame f valid s) := by
  rcases onFrame_cases f valid s with heq | ⟨-, -, -, d, heq⟩
  · rw [heq]
    exact ⟨_, rfl, by simp [discardDiag_isPlain]⟩
  · rw [heq]
    have reported : AppendsPlain s { s with out := s.out ++ [.frame f valid] } := .one (o := .frame f valid) rfl rfl
    exact reported.trans (merge_appendsPlain d _)

theorem onFrames_appendsPlain (fs : List (Bytes × Bool)) (s : State) : AppendsPlain s (onFrames fs s) := by
  induction fs generalizing s with
  | nil => exact .refl s
  | cons p fs ih => exact (onFrame_appendsPlain p.1 p.2 s).trans (ih _)

theorem receiveFrame_appendsPlain (f : Bytes) (s : State) : AppendsPlain s (receiveFrame f s) :=
  Appends.trans (.of_out_eq (by simp)) (onFrame_appendsPlain f _ _)

theorem reassemble_appendsPlain (chunk : Bytes) (s : State) : AppendsPlain s (reassemble chunk s).1 := by
  rcases reassemble_cases chunk s with ⟨-, heq⟩ | ⟨-, drops, fs, rest, -, heq⟩
  · rw [heq]
    exact .one (o := .diag (.bufferOverflow _)) rfl rfl
  · rw [heq]
    exact ⟨_, rfl, by simp [Output.isPlain]⟩

/-! Every event -/

/-- A completion that breaks the transport's duty is signalled and nothing else; every other event emits plain
outputs. -/
theorem eventOp_appendsPlain (i : Instr) {s : State} (hs : s.Sound) :
    AppendsPlain s (eventOp i s) ∨ ¬ Dutiful i s ∧ ∃ k, eventOp i s = s.signal (.spuriousTransportEvent k) := by
  have called {u : State} (h : AppendsPlain s.takeTicket u) : AppendsPlain s u := h
  cases i with
  | connect path baud => exact .inl (called (onConnect_appendsPlain path baud _ _))
  | disconnect => exact .inl (called (onDisconnect_appendsPlain _ _))
  | openCabinets ids => exact .inl (called (onOpenCabinets_appendsPlain ids _ _))
  | getStatus fresh => exact .inl (called (onGetStatus_appendsPlain fresh _ _))
  | resetStatus => exact .inl (called (onResetStatus_appendsPlain _ _))
  | connectDone r =>
    by_cases hc : s.conn = .connecting
    · exact .inl (onConnectDone_appendsPlain hc r)
    · exact .inr ⟨hc, _, onConnectDone_spurious hc r⟩
  | txDone r =>
    cases hw : s.writeOutstanding with
    | true => exact .inl (onTxDone_appendsPlain hs hw r)
    | false => exact .inr ⟨by simp [Dutiful, hw], _, onTxDone_spurious hw r⟩
  | rx chunk => exact .inl ((reassemble_appendsPlain chunk s).trans (onFrames_appendsPlain _ _))
  | lineLost => exact .inl (onLineLost_appendsPlain s)
  | tick n => exact .inl (onTick_appendsPlain n s)
  | _ => exact .inl (.refl s)

/-! The signal of a spurious completion (R217) -/

/-- An output that is not the signal of a spurious completion. -/
def NotSpurious (o : Output) : Prop := ∀ k, o ≠ .diag (.spuriousTransportEvent k)

theorem notSpurious_of_isPlain (o : Output) (h : o.isPlain = true) : NotSpurious o := by
  rintro k rfl
  cases h

theorem notSpurious_of_isJobOutput (o : Output) (h : IsJobOutput o) : NotSpurious o := by
  rintro k rfl
  obtain ⟨f, h⟩ | ⟨tk, v, h⟩ := h <;> cases h

theorem execOpenFrame_appends {id : Byte} {s t : State} (h : execOpenFrame id s = .next t) :
    Appends IsJobOutput s t := by
  rw [← Host.Outcome.next.inj h]
  split
  next j _ =>
    split
    next hcur =>
      obtain ⟨-, hid⟩ := hcur
      exact jobStep_openJob_current hid ▸ jobStep_appends (.openJob j) s
    next => exact .refl s
  next => exact .refl s

theorem execStatusReq_appends {s t : State} (h : execStatusReq s = .next t) : Appends IsJobOutput s t := by
  rw [← Host.Outcome.next.inj h]
  split
  next j _ =>
    split
    · exact jobStep_appends (.statusJob j) s
    · exact .refl s
  next => exact .refl s

theorem execBuild_out {payload : Bytes} {address instruction : Byte} {s t : State}
    (h : execBuild payload address instruction s = .next t) : t.out = s.out := by
  unfold execBuild at h
  split at h
  · cases h
  · rw [← Host.Outcome.next.inj h]
    rfl

/-- An event that keeps the transport's duties signals no spurious completion. -/
theorem event_notSpurious {i : Instr} {s : State} (hs : s.Sound) (hd : Dutiful i s) :
    Appends NotSpurious s (advance (eventOp i s)) := by
  have hop : AppendsPlain s (eventOp i s) := (eventOp_appendsPlain i hs).resolve_right fun ⟨hn, _⟩ => hn hd
  exact (hop.mono notSpurious_of_isPlain).trans ((advance_appends _).mono notSpurious_of_isJobOutput)

/-- No instruction that keeps the transport's duties signals a spurious completion. -/
theorem exec_notSpurious {i : Instr} {s t : State} (hs : s.Sound) (hd : Dutiful i s) (h : exec i s = .next t) :
    Appends NotSpurious s t := by
  have event (hi : i.isEvent = true) : Appends NotSpurious s t := by
    rw [exec_of_isEvent hi] at h
    exact Host.Outcome.next.inj h ▸ event_notSpurious hs hd
  have plain {u : State} (heq : (.next u : Host.Outcome State Fault Refusal) = .next t) (hu : AppendsPlain s u) :
      Appends NotSpurious s t := Host.Outcome.next.inj heq ▸ hu.mono notSpurious_of_isPlain
  cases i with
  | openFrame id => exact (execOpenFrame_appends h).mono notSpurious_of_isJobOutput
  | statusReq => exact (execStatusReq_appends h).mono notSpurious_of_isJobOutput
  | statusResp => exact plain h (receiveFrame_appendsPlain _ s)
  | inboundOther f => exact plain h (receiveFrame_appendsPlain f s)
  | round => exact plain h (.of_out_eq rfl)
  | ckInit => exact plain h (.of_out_eq rfl)
  | ckByte b => exact plain h (.of_out_eq rfl)
  | checksum bs => exact plain h (.of_out_eq rfl)
  | build => exact .of_out_eq (execBuild_out h)
  | validate f => exact plain h (.of_out_eq (by simp))
  | hexdump bs => exact plain h (.of_out_eq rfl)
  | reassemble chunk => exact plain h (reassemble_appendsPlain chunk s)
  | decodeStatus f => exact plain h (.of_out_eq rfl)
  | _ => exact event rfl

/-- Settles O31: a spurious completion is its signal, which leaves a quiescent state quiescent; and no dutiful
instruction signals one. -/
theorem spuriousCompletionsAreIgnored : Obligations.SpuriousCompletionsAreIgnored := by
  unfold Obligations.SpuriousCompletionsAreIgnored
  refine ⟨fun r s hq => ⟨fun hw => ?_, fun hc => ?_⟩, fun i s t k hinv hd h hmem => ?_⟩
  · rw [exec_of_isEvent rfl, eventOp, onTxDone_spurious hw]
    exact congrArg _ (advance_of_quiescent (hq.of_conn_out s.conn _))
  · rw [exec_of_isEvent rfl, eventOp, onConnectDone_spurious hc]
    exact congrArg _ (advance_of_quiescent (hq.of_conn_out s.conn _))
  · exact (exec_notSpurious (s.inv_iff.1 hinv).1 hd h).emitted _ hmem k rfl

end Sys2Proof.Machine
end

section
/-! PROOFS. The queued calls (R182, R196, R197, R206): the account of the tickets answered and pending, and of the
batches pending, which an event's operation keeps but for the job that the call queues; Advance() keeps the first and answers
from the second. -/

namespace Sys2Proof.Machine

open Sys2Proof

/-! The accounts -/

@[simp] theorem jobResponses_append (os os' : List Output) :
    jobResponses (os ++ os') = jobResponses os ++ jobResponses os' := by
  induction os with
  | nil => rfl
  | cons o os ih =>
    cases o with
    | response tk v =>
      cases v with
      | status b cs f =>
        rw [List.cons_append, jobResponses, jobResponses, ih]
        split <;> rfl
      | _ => simp [jobResponses, ih]
    | _ => simp [jobResponses, ih]

@[simp] theorem jobResponses_map_diag {α : Type} (d : α → Diag) (l : List α) :
    jobResponses (l.map fun a => .diag (d a)) = [] := by
  induction l with
  | nil => rfl
  | cons a l ih => exact ih

/-- The tickets answered for queued calls, then those of the unresolved jobs. -/
def State.ledger (s : State) : List Nat := jobResponses s.out ++ s.jobs.map Job.ticket

/-- The ticket and the IDs of an open job. -/
def Job.batch? : Job → Option (Nat × Bytes)
  | .openJob j => some (j.ticket, j.ids)
  | .statusJob _ => none

/-- The unresolved batches. -/
def State.batches (s : State) : List (Nat × Bytes) := s.jobs.filterMap Job.batch?

theorem mem_batches {s : State} {tk : Nat} {ids : Bytes} :
    (tk, ids) ∈ s.batches ↔ ∃ j : OpenJob, .openJob j ∈ s.jobs ∧ j.ticket = tk ∧ j.ids = ids := by
  rw [State.batches, List.mem_filterMap]
  constructor
  · rintro ⟨j | j, hj, hb⟩
    · cases hb
      exact ⟨j, hj, rfl, rfl⟩
    · cases hb
  · rintro ⟨j, hj, rfl, rfl⟩
    exact ⟨.openJob j, hj, rfl⟩

/-- From `s` to `t` no call is lost, answered twice or out of turn, and the same batches are pending. -/
structure KeepsCalls (s t : State) : Prop where
  ledger : t.ledger = s.ledger
  batches : t.batches = s.batches

namespace KeepsCalls

variable {s t u : State} {j j' : Job}

theorem refl (s : State) : KeepsCalls s s := ⟨rfl, rfl⟩

theorem trans (h : KeepsCalls s t) (h' : KeepsCalls t u) : KeepsCalls s u :=
  ⟨h'.ledger.trans h.ledger, h'.batches.trans h.batches⟩

/-- The jobs stay, and no queued call is answered. -/
theorem of_jobs (hj : t.jobs = s.jobs) (ho : jobResponses t.out = jobResponses s.out) : KeepsCalls s t :=
  ⟨by rw [State.ledger, hj, ho, State.ledger], by rw [State.batches, hj, State.batches]⟩

/-- The active job moves on. -/
theorem update (ha : s.active = some j) (ha' : t.active = some j') (hq : t.queue = s.queue)
    (ht : j'.ticket = j.ticket) (hb : j'.batch? = j.batch?) (ho : jobResponses t.out = jobResponses s.out) :
    KeepsCalls s t where
  ledger := by simp [State.ledger, State.jobs, ha, ha', hq, ht, ho]
  batches := by simp [State.batches, State.jobs, ha, ha', hq, hb, List.filterMap_cons]

/-- The active status job is resolved, which is its call's answer (R213). -/
theorem resolve {j : StatusJob} {f : Freshness} (hf : f ≠ .notRequested) (ha : s.active = some (.statusJob j)) :
    KeepsCalls s (resolve j f s) where
  ledger := by simp [State.ledger, State.jobs, ha, resolve_eq, State.statusReport, jobResponses, Job.ticket, hf]
  batches := by simp [State.batches, State.jobs, ha, resolve_eq, Job.batch?, List.filterMap_cons]

end KeepsCalls

/-! Operations that queue nothing -/

theorem signal_keepsCalls (d : Diag) (s : State) : KeepsCalls s (s.signal d) :=
  .of_jobs rfl (by simp [jobResponses])

theorem settle_keepsCalls (s : State) : KeepsCalls s s.settle := .of_jobs rfl rfl

theorem answerConnect_keepsCalls {v : ResponseValue} (hv : ∀ t, jobResponses [.response t v] = []) (s : State) :
    KeepsCalls s (s.answerConnect v) :=
  .of_jobs (by simp [State.jobs]) (by unfold State.answerConnect; split <;> simp [hv])

theorem onConnect_keepsCalls (path : OpaqueValue) (baud t : Nat) (s : State) :
    KeepsCalls s (onConnect path baud t s) := by
  unfold onConnect
  split
  · exact .of_jobs rfl (by simp [jobResponses])
  · exact .of_jobs rfl (by simp [jobResponses])

theorem onDisconnect_keepsCalls (t : Nat) (s : State) : KeepsCalls s (onDisconnect t s) := by
  have aborted : KeepsCalls s (if s.conn = .connecting then s.answerConnect (.connectError .aborted) else s) := by
    split
    · exact answerConnect_keepsCalls (fun _ => rfl) s
    · exact .refl s
  exact aborted.trans (.of_jobs rfl (by simp [onDisconnect, jobResponses]))

theorem onResetStatus_keepsCalls (t : Nat) (s : State) : KeepsCalls s (onResetStatus t s) :=
  .of_jobs rfl (by simp [onResetStatus, jobResponses])

theorem onConnectDone_keepsCalls (r : TransportResult) (s : State) : KeepsCalls s (onConnectDone r s) := by
  have moved (c : ConnState) : KeepsCalls s (s.setConn c) := .of_jobs rfl rfl
  unfold onConnectDone
  split
  · cases r with
    | ok => exact (moved _).trans (answerConnect_keepsCalls (fun _ => rfl) _)
    | err e => exact (moved _).trans (answerConnect_keepsCalls (fun _ => rfl) _)
  · exact signal_keepsCalls _ s

theorem statusTxDone_keepsCalls {j : StatusJob} {s : State} (ha : s.active = some (.statusJob j))
    (r : TransportResult) : KeepsCalls s (statusTxDone j r s) := by
  cases r with
  | err e => exact (settle_keepsCalls s).trans (.resolve (by simp) ha)
  | ok =>
    unfold statusTxDone
    dsimp only
    split
    · exact (settle_keepsCalls s).trans (.resolve (by simp) ha)
    · exact .update ha rfl rfl rfl rfl rfl

theorem openTxDone_keepsCalls {j : OpenJob} {s : State} (ha : s.active = some (.openJob j)) (id : Byte)
    (r : TransportResult) : KeepsCalls s (openTxDone j id r s) := by
  cases r with
  | ok => exact .update ha rfl rfl rfl rfl rfl
  | err e => exact .update ha rfl rfl rfl rfl rfl

theorem onTxDone_keepsCalls (r : TransportResult) (s : State) : KeepsCalls s (onTxDone r s) := by
  unfold onTxDone
  split
  next j ha =>
    split
    next id _ _ => exact openTxDone_keepsCalls ha id r
    next => exact signal_keepsCalls _ s
  next j ha =>
    split
    · exact statusTxDone_keepsCalls ha r
    · exact signal_keepsCalls _ s
  next => exact signal_keepsCalls _ s

theorem onLineLost_keepsCalls (s : State) : KeepsCalls s (onLineLost s) := by
  unfold onLineLost
  split
  · exact .of_jobs rfl (by simp [jobResponses])
  · exact .refl s

theorem checkTimeout_keepsCalls (s : State) : KeepsCalls s (checkTimeout s) := by
  unfold checkTimeout
  split
  next j ha =>
    split
    · exact (signal_keepsCalls _ s).trans (.resolve (by simp) ha)
    · exact .refl s
  next => exact .refl s

theorem onTick_keepsCalls (n : Nat) (s : State) : KeepsCalls s (onTick n s) := by
  have timed : KeepsCalls s (s.advanceTime n) := .of_jobs (by simp [State.jobs]) (by simp)
  exact timed.trans (checkTimeout_keepsCalls _)

theorem noteResponse_keepsCalls (s : State) : KeepsCalls s (noteResponse s) := by
  have h := noteResponse_outcome s
  generalize noteResponse s = t at h
  cases h with
  | fresh j ha => exact .resolve (by simp) ha
  | seen j ha => exact .update ha rfl rfl rfl rfl rfl
  | none => exact .refl s

theorem onFrame_keepsCalls (f : Bytes) (valid : Bool) (s : State) : KeepsCalls s (onFrame f valid s) := by
  rcases onFrame_cases f valid s with heq | ⟨-, -, -, d, heq⟩
  · rw [heq]
    exact .of_jobs rfl (by simp [jobResponses])
  · obtain ⟨m, -, heq'⟩ := merge_eq d { s with out := s.out ++ [.frame f valid] }
    rw [heq, heq']
    have merged : KeepsCalls s { s with cabMap := m, out := s.out ++ [.frame f valid] } :=
      .of_jobs rfl (by simp [jobResponses])
    exact merged.trans (noteResponse_keepsCalls _)

theorem onFrames_keepsCalls (fs : List (Bytes × Bool)) (s : State) : KeepsCalls s (onFrames fs s) := by
  induction fs generalizing s with
  | nil => exact .refl s
  | cons p fs ih => exact (onFrame_keepsCalls p.1 p.2 s).trans (ih _)

theorem reassemble_keepsCalls (chunk : Bytes) (s : State) : KeepsCalls s (reassemble chunk s).1 := by
  rcases reassemble_cases chunk s with ⟨-, heq⟩ | ⟨-, drops, fs, rest, -, heq⟩
  · rw [heq]
    exact .of_jobs rfl (by simp [jobResponses])
  · rw [heq]
    exact .of_jobs rfl (by simp)

/-! Every event -/

/-- The job that a call queues (R200, R208). -/
inductive Queues (s : State) : Instr → Job → Prop where
  | openCabinets (ids : List Int) : structuralError ids = none → Queues s (.openCabinets ids) (.openJob
      { ticket := s.nextTicket, ids := ids.map idByte, k := 0, opened := [], failed := [], phase := .ready })
  | getStatus : Queues s (.getStatus true) (.statusJob
      { ticket := s.nextTicket, phase := .ready, deadline := none, respSeen := false })

theorem Queues.ticket {s : State} {i : Instr} {j : Job} (h : Queues s i j) : j.ticket = s.nextTicket := by
  cases h <;> rfl

/-- An event keeps the accounts, once its job is queued when it is a call that queues one. -/
theorem eventOp_calls (i : Instr) (s : State) :
    KeepsCalls s (eventOp i s) ∨ ∃ j, Queues s i j ∧ KeepsCalls (s.enqueue j) (eventOp i s) := by
  have taken : KeepsCalls s s.takeTicket := .of_jobs rfl rfl
  cases i with
  | connect path baud => exact .inl (taken.trans (onConnect_keepsCalls path baud _ _))
  | disconnect => exact .inl (taken.trans (onDisconnect_keepsCalls _ _))
  | openCabinets ids =>
    rw [eventOp]
    cases he : structuralError ids with
    | some e =>
      rw [onOpenCabinets_error he]
      exact .inl (.of_jobs rfl (by simp [jobResponses]))
    | none =>
      rw [onOpenCabinets_valid he]
      exact .inr ⟨_, .openCabinets ids he, .of_jobs rfl rfl⟩
  | getStatus fresh =>
    cases fresh with
    | true => exact .inr ⟨_, .getStatus, .of_jobs rfl rfl⟩
    | false => exact .inl (.of_jobs rfl (by simp [eventOp, onGetStatus, State.statusReport, jobResponses]))
  | resetStatus => exact .inl (taken.trans (onResetStatus_keepsCalls _ _))
  | connectDone r => exact .inl (onConnectDone_keepsCalls r s)
  | txDone r => exact .inl (onTxDone_keepsCalls r s)
  | rx chunk => exact .inl ((reassemble_keepsCalls chunk s).trans (onFrames_keepsCalls _ _))
  | lineLost => exact .inl (onLineLost_keepsCalls s)
  | tick n => exact .inl (onTick_keepsCalls n s)
  | _ => exact .inl (.refl s)

theorem enqueue_ledger (s : State) (j : Job) : (s.enqueue j).ledger = s.ledger ++ [j.ticket] := by
  simp [State.ledger, State.jobs]

theorem enqueue_batches (s : State) (j : Job) : (s.enqueue j).batches = s.batches ++ j.batch?.toList := by
  cases j <;> simp [State.batches, State.jobs, Job.batch?]

/-! Advance() -/

theorem dequeue_keepsCalls (s : State) : KeepsCalls s (dequeue s) :=
  .of_jobs (dequeue_jobs s) (by rw [dequeue_out])

/-- A job step answers the active job's call or leaves it pending, and ends the active job's batch at most. -/
theorem jobStep_calls {s : State} {j : Job} (ha : s.active = some j) :
    (jobStep j s).1.ledger = s.ledger ∧ (jobStep j s).1.batches ⊆ s.batches := by
  have of_keeps {t : State} (h : KeepsCalls s t) : t.ledger = s.ledger ∧ t.batches ⊆ s.batches :=
    ⟨h.ledger, h.batches ▸ List.Subset.refl _⟩
  have h := jobStep_outcome j s
  generalize (jobStep j s).1 = t at h
  generalize (jobStep j s).2 = progressed at h
  cases h with
  | finish o _ =>
    refine ⟨by simp [State.ledger, State.jobs, ha, jobResponses, Job.ticket], ?_⟩
    simp [State.batches, State.jobs, ha, Job.batch?]
  | wait => exact of_keeps (.refl s)
  | openFail o id _ _ _ => exact of_keeps (.update ha rfl rfl rfl rfl rfl)
  | openWrite o id _ _ _ => exact of_keeps (.update ha rfl rfl rfl rfl (by simp [jobResponses]))
  | statusFail o _ _ => exact of_keeps ((settle_keepsCalls s).trans (.resolve (f := .notConnected) (by simp) ha))
  | statusWrite o _ _ => exact of_keeps (.update ha rfl rfl rfl rfl (by simp [jobResponses]))

theorem advance_ledger (s : State) : (advance s).ledger = s.ledger :=
  advance_keeps (P := fun t => t.ledger = s.ledger) (fun t h => (dequeue_keepsCalls t).ledger.trans h)
    (fun _ _ h ha _ => (jobStep_calls ha).1.trans h) rfl

/-- Settles O44: the ledger grows by the ticket of the job that the call queues, and Advance() keeps it. -/
theorem queuedCallsAreAnsweredOnceInOrder : Obligations.QueuedCallsAreAnsweredOnceInOrder := by
  unfold Obligations.QueuedCallsAreAnsweredOnceInOrder
  intro s t h
  show ∃ new, (new = [] ∨ new = [s.nextTicket]) ∧ t.ledger = s.ledger ++ new
  rcases step_cases h with ⟨-, rfl⟩ | ⟨i, rest, -, -, -, rfl⟩
  · exact ⟨[], .inl rfl, by simp⟩
  · rw [advance_ledger]
    rcases eventOp_calls i { s with inbox := rest } with hk | ⟨j, hj, hk⟩
    · exact ⟨[], .inl rfl, hk.ledger.trans (List.append_nil _).symm⟩
    · exact ⟨[s.nextTicket], .inr rfl, by rw [hk.ledger, enqueue_ledger, hj.ticket]; rfl⟩

/-! Batch results (R201, R206) -/

/-- An output that, if it is a batch result, splits the IDs of one of the batches. -/
def AnswersBatch (batches : List (Nat × Bytes)) (o : Output) : Prop :=
  ∀ tk opened failed, o = .response tk (.openResult opened failed) →
    ∃ ids, (tk, ids) ∈ batches ∧ BatchSplit ids opened failed

theorem answersBatch_of_isPlain (batches : List (Nat × Bytes)) (o : Output) (h : o.isPlain = true) :
    AnswersBatch batches o := by
  rintro tk opened failed rfl
  cases h

/-- The result of a batch without a current ID splits all its IDs. -/
theorem OpenJob.Ok.batchSplit {j : OpenJob} (h : j.Ok) (hk : j.ids[j.k]? = none) :
    BatchSplit j.ids j.opened j.failed := by
  have hall : j.ids.take j.k = j.ids := List.take_of_length_le (List.getElem?_eq_none_iff.1 hk)
  exact hall ▸ h.batch

/-- A job step emits no batch result but that of the active job. -/
theorem jobStep_answersBatch {s : State} {j : Job} (hs : s.Sound) (ha : s.active = some j) :
    Appends (AnswersBatch s.batches) s (jobStep j s).1 := by
  have plain {o : Output} {t : State} (ho : o.isPlain = true) (h : t.out = s.out ++ [o]) :
      Appends (AnswersBatch s.batches) s t := .one (answersBatch_of_isPlain _ o ho) h
  have h := jobStep_outcome j s
  generalize (jobStep j s).1 = t at h
  generalize (jobStep j s).2 = progressed at h
  cases h with
  | finish o hk =>
    refine .one (o := .response o.ticket (.openResult o.opened o.failed)) ?_ rfl
    rintro _ _ _ ⟨⟩
    have hok : o.Ok := hs.jobs.active_ok _ ha
    exact ⟨o.ids, mem_batches.2 ⟨o, by simp [State.jobs, ha], rfl, rfl⟩, hok.batchSplit hk⟩
  | wait => exact .refl s
  | openFail => exact .of_out_eq rfl
  | openWrite => exact plain (o := .txFrame _) rfl rfl
  | statusFail o => exact plain (o := .response o.ticket (s.statusReport .notConnected)) rfl rfl
  | statusWrite => exact plain (o := .txFrame _) rfl rfl

/-- The batch results of Advance() split the IDs of batches pending before it. -/
def AnswersFrom (s t : State) : Prop := s.Sound → Appends (AnswersBatch s.batches) s t

theorem advance_answersFrom (s : State) : AnswersFrom s (advance s) := by
  have dequeued (s : State) : Appends (AnswersBatch s.batches) s (dequeue s) := .of_out_eq (dequeue_out s)
  have stepped (s : State) (j : Job) (ha : (dequeue s).active = some j) (hs : s.Sound) :
      Appends (AnswersBatch s.batches) s (jobStep j (dequeue s)).1 :=
    (dequeued s).trans ((dequeue_keepsCalls s).batches ▸ jobStep_answersBatch (dequeue_sound hs) ha)
  refine advance_induct (P := AnswersFrom) (fun s _ _ _ => .refl s) (fun s _ _ _ _ => dequeued s)
    (fun s j ha _ _ hs => stepped s j ha hs) (fun s j ha hr _ ih hs => ?_) s
  have hsub : (jobStep j (dequeue s)).1.batches ⊆ s.batches :=
    (dequeue_keepsCalls s).batches ▸ (jobStep_calls ha).2
  have later := ih (jobStep_sound (dequeue_sound hs) ha hr)
  refine (stepped s j ha hs).trans (later.mono fun o ho tk opened failed heq => ?_)
  obtain ⟨ids, hmem, hsplit⟩ := ho tk opened failed heq
  exact ⟨ids, hsub hmem, hsplit⟩

/-- Every event's operation keeps the parts of the invariant. -/
theorem eventOp_sound (i : Instr) {s : State} (h : s.Sound) : (eventOp i s).Sound := by
  cases i with
  | connect path baud => exact onConnect_sound h path baud
  | disconnect => exact onDisconnect_sound h
  | openCabinets ids => exact onOpenCabinets_sound h ids
  | getStatus fresh => exact onGetStatus_sound h fresh
  | resetStatus => exact onResetStatus_sound h
  | connectDone r => exact onConnectDone_sound h r
  | txDone r => exact onTxDone_sound h r
  | rx chunk => exact onFrames_sound _ (reassemble_sound h chunk)
  | lineLost => exact onLineLost_sound h
  | tick n => exact onTick_sound h n
  | _ => exact h

/-- An event's batch results split the IDs of batches pending after its operation. -/
theorem event_answersBatch (i : Instr) {s : State} (hs : s.Sound) :
    Appends (AnswersBatch (eventOp i s).batches) s (advance (eventOp i s)) := by
  refine Appends.trans ?_ (advance_answersFrom _ (eventOp_sound i hs))
  rcases eventOp_appendsPlain i hs with h | ⟨-, k, heq⟩
  · exact h.mono (answersBatch_of_isPlain _)
  · rw [heq]
    exact .one (o := .diag (.spuriousTransportEvent k)) (fun _ _ _ h => by cases h) rfl

/-- A batch pending after an event's operation was pending before it, or it is that of the call. -/
theorem mem_batches_eventOp {i : Instr} {s : State} {tk : Nat} {ids : Bytes} (h : (tk, ids) ∈ (eventOp i s).batches) :
    (tk, ids) ∈ s.batches ∨
      ∃ vs, i = .openCabinets vs ∧ tk = s.nextTicket ∧ ids.map (fun b => (b.toNat : Int)) = vs := by
  rcases eventOp_calls i s with hk | ⟨j, hj, hk⟩
  · exact .inl (hk.batches ▸ h)
  · rw [hk.batches, enqueue_batches, List.mem_append] at h
    refine h.imp id fun hnew => ?_
    cases hj with
    | openCabinets vs hvs =>
      obtain ⟨rfl, rfl⟩ : tk = s.nextTicket ∧ ids = vs.map idByte := by simpa [Job.batch?] using hnew
      exact ⟨vs, rfl, rfl, map_idByte_toNat ((structuralError_eq_none_iff vs).1 hvs).2⟩
    | getStatus => simp [Job.batch?] at hnew

/-- Settles O45: the result splits the IDs of a batch pending before Advance(), and that batch was pending before the
event or it is that of the call. -/
theorem batchResponseListsEveryId : Obligations.BatchResponseListsEveryId := by
  unfold Obligations.BatchResponseListsEveryId
  intro s t tk opened failed hinv h hmem
  rcases step_cases h with ⟨-, rfl⟩ | ⟨i, rest, hpending, -, -, rfl⟩
  · simp [emitted] at hmem
  · obtain ⟨ids, hids, hsplit⟩ := (event_answersBatch i (hinv.sound_inbox rest)).emitted _ hmem tk opened failed rfl
    refine ⟨ids, hsplit, by simpa using hsplit.1.length_eq, (mem_batches_eventOp hids).imp mem_batches.1 ?_⟩
    rintro ⟨vs, rfl, htk, hvs⟩
    exact ⟨vs, hpending, htk, hvs⟩

end Sys2Proof.Machine
end

section
/-! PROOFS. Pacing (R198, R202, R203, R220, R276, R277): NEXT_SEND_AT never moves back, no frame is written before it,
and the completion of a write moves it to the end of the settle time. -/

namespace Sys2Proof.Machine

open Sys2Proof

/-! A send slot off the line (R202) -/

section Slot

variable {j : OpenJob} {id : Byte} {s : State}

theorem sendOpen_early (hw : s.now < s.nextSendAt) : sendOpen j id s = (s, false) := if_pos hw

theorem sendOpen_offline (hn : s.nextSendAt ≤ s.now) (hc : s.conn ≠ .connected) :
    sendOpen j id s = ((s.setActive (some (.openJob (j.fail id .notConnected)))).settle, true) := by
  simp [sendOpen, Nat.not_lt.2 hn, hc]

end Slot

/-- Settles O17: the first two cases of the open job's send slot; failing keeps a Ready job Ready. -/
theorem openWaitsOrFailsNotConnected : Obligations.OpenWaitsOrFailsNotConnected := by
  unfold Obligations.OpenWaitsOrFailsNotConnected
  intro id j s ha hr hid
  rw [exec_openFrame_current ha hr hid, jobStep_openJob_current hid]
  refine ⟨fun hw => ?_, fun hn hc => ?_⟩
  · rw [sendOpen_early hw]
    exact ⟨rfl, rfl⟩
  · rw [sendOpen_offline hn hc, openFail_eq, OpenJob.fail, ← hr]
    exact ⟨rfl, rfl⟩

/-! The paced write (R198, R276) -/

/-- A Ready open job with a current ID on a connected line writes its command in a free slot, and Advance() stops. -/
theorem advance_writes_open {j : OpenJob} {id : Byte} {s : State} (ha : s.active = some (.openJob j))
    (hr : j.phase = .ready) (hid : j.ids[j.k]? = some id) (hn : s.nextSendAt ≤ s.now) (hc : s.conn = .connected) :
    advance s = { s with
      acc := checksumFn s.cfg.poly (frameBody s.cfg [id] s.cfg.address s.cfg.instrOpen)
      active := some (.openJob { j with phase := .awaitTx })
      out := s.out ++ [.txFrame (sealFrame s.cfg.poly (frameBody s.cfg [id] s.cfg.address s.cfg.instrOpen))] } := by
  rw [advance_of_ready ha (by simp [Job.isReady, hr]), jobStep_openJob_current hid,
    sendOpen_connected hn hc, openWrite_eq]
  rfl

/-- Settles O51: the tick sets the time, from which the slot is free. -/
theorem tickStartsThePacedWrite : Obligations.TickStartsThePacedWrite := by
  unfold Obligations.TickStartsThePacedWrite
  intro j id t s ha hr hid hc hn
  have hnoStatus (j' : StatusJob) (ha' : (s.advanceTime t).active = some (.statusJob j')) :
      j'.expired (s.advanceTime t).now = false := by
    simp [ha] at ha'
  have hwrite := advance_writes_open (s := s.advanceTime t) (by simpa using ha) hr hid
    (by rw [State.advanceTime_nextSendAt, State.advanceTime_now]; omega) (by simpa using hc)
  refine ⟨_, exec_of_isEvent rfl s, ?_⟩
  rw [eventOp, onTick, checkTimeout_idle hnoStatus, hwrite]
  refine ⟨rfl, ?_⟩
  simp [emitted, txFrames, frameBody]

/-! NEXT_SEND_AT under Advance() -/

/-- From `s` to `t`: the time stands still, NEXT_SEND_AT does not move back, and a frame is written only when it has
been reached. -/
structure Paces (s t : State) : Prop where
  now : t.now = s.now
  nextSendAt : s.nextSendAt ≤ t.nextSendAt
  writes : txFrames t.out ≠ txFrames s.out → t.nextSendAt ≤ t.now

namespace Paces

variable {s t u : State}

theorem of_silent (hn : t.now = s.now) (hs : s.nextSendAt ≤ t.nextSendAt) (ho : txFrames t.out = txFrames s.out) :
    Paces s t := ⟨hn, hs, fun h => absurd ho h⟩

/-- Silence, and then the rest. -/
theorem trans_silent (hn : t.now = s.now) (hs : s.nextSendAt ≤ t.nextSendAt) (ho : txFrames t.out = txFrames s.out)
    (h : Paces t u) : Paces s u :=
  ⟨h.now.trans hn, hs.trans h.nextSendAt, fun hne => h.writes (ho ▸ hne)⟩

end Paces

theorem dequeue_now (s : State) : (dequeue s).now = s.now := by
  rcases dequeue_cases s with ⟨heq, -⟩ | ⟨j, rest, -, -, heq⟩ <;> rw [heq]

theorem dequeue_nextSendAt (s : State) : (dequeue s).nextSendAt = s.nextSendAt := by
  rcases dequeue_cases s with ⟨heq, -⟩ | ⟨j, rest, -, -, heq⟩ <;> rw [heq]

/-- A job step writes in a free slot only, and starts a settle time in a free slot only. -/
theorem jobStep_paces (j : Job) (s : State) : Paces s (jobStep j s).1 := by
  have h := jobStep_outcome j s
  generalize (jobStep j s).1 = t at h
  generalize (jobStep j s).2 = progressed at h
  cases h with
  | finish => exact .of_silent rfl le_rfl (by simp [txFrames])
  | wait => exact .of_silent rfl le_rfl rfl
  | openFail o id _ hn _ => exact .of_silent rfl (Nat.le_add_right_of_le hn) rfl
  | openWrite o id _ hn _ => exact ⟨rfl, le_rfl, fun _ => hn⟩
  | statusFail o hn _ => exact .of_silent rfl (Nat.le_add_right_of_le hn) (by simp [txFrames])
  | statusWrite o hn _ => exact ⟨rfl, le_rfl, fun _ => hn⟩

/-- A job step that progresses writes nothing. -/
theorem txFrames_jobStep_of_progress {j : Job} {s : State} (hp : (jobStep j s).2 = true) :
    txFrames (jobStep j s).1.out = txFrames s.out := by
  have h := jobStep_outcome j s
  rw [hp] at h
  generalize (jobStep j s).1 = t at h
  cases h with
  | finish => simp [txFrames]
  | openFail => rfl
  | statusFail => simp [txFrames]

theorem advance_paces (s : State) : Paces s (advance s) := by
  have dequeued {s t : State} (h : Paces (dequeue s) t) : Paces s t :=
    .trans_silent (dequeue_now s) (dequeue_nextSendAt s).ge (by rw [dequeue_out]) h
  refine advance_induct (P := Paces) (fun s _ _ => .of_silent rfl le_rfl rfl)
    (fun s _ _ _ => dequeued (.of_silent rfl le_rfl rfl)) (fun s j _ _ _ => dequeued (jobStep_paces j _))
    (fun s j _ _ hp ih => dequeued ?_) s
  have hstep := jobStep_paces j (dequeue s)
  exact .trans_silent hstep.now hstep.nextSendAt (txFrames_jobStep_of_progress hp) ih

/-! NEXT_SEND_AT under an event's operation -/

@[simp] theorem resolve_nextSendAt (j : StatusJob) (f : Freshness) (s : State) :
    (resolve j f s).nextSendAt = s.nextSendAt := rfl

@[simp] theorem onConnect_nextSendAt (path : OpaqueValue) (baud t : Nat) (s : State) :
    (onConnect path baud t s).nextSendAt = s.nextSendAt := by
  unfold onConnect
  split <;> rfl

@[simp] theorem onDisconnect_nextSendAt (t : Nat) (s : State) : (onDisconnect t s).nextSendAt = s.nextSendAt := by
  unfold onDisconnect
  dsimp only
  split <;> simp

@[simp] theorem onOpenCabinets_nextSendAt (ids : List Int) (t : Nat) (s : State) :
    (onOpenCabinets ids t s).nextSendAt = s.nextSendAt := by
  unfold onOpenCabinets
  split <;> rfl

@[simp] theorem onGetStatus_nextSendAt (fresh : Bool) (t : Nat) (s : State) :
    (onGetStatus fresh t s).nextSendAt = s.nextSendAt := by
  unfold onGetStatus
  split <;> rfl

@[simp] theorem onConnectDone_nextSendAt (r : TransportResult) (s : State) :
    (onConnectDone r s).nextSendAt = s.nextSendAt := by
  unfold onConnectDone
  split
  · cases r <;> simp
  · rfl

@[simp] theorem onLineLost_nextSendAt (s : State) : (onLineLost s).nextSendAt = s.nextSendAt := by
  unfold onLineLost
  split <;> rfl

@[simp] theorem onTick_nextSendAt (n : Nat) (s : State) : (onTick n s).nextSendAt = s.nextSendAt := by
  unfold onTick checkTimeout
  split
  · split <;> simp
  · simp

@[simp] theorem onFrame_nextSendAt (f : Bytes) (valid : Bool) (s : State) :
    (onFrame f valid s).nextSendAt = s.nextSendAt := by
  rcases onFrame_cases f valid s with heq | ⟨-, -, -, d, heq⟩
  · rw [heq]
  · obtain ⟨m, -, heq'⟩ := merge_eq d { s with out := s.out ++ [.frame f valid] }
    rw [heq, heq', noteResponse_frame]

@[simp] theorem onFrames_nextSendAt (fs : List (Bytes × Bool)) (s : State) :
    (onFrames fs s).nextSendAt = s.nextSendAt := by
  induction fs generalizing s with
  | nil => rfl
  | cons p fs ih => exact (ih _).trans (onFrame_nextSendAt p.1 p.2 s)

@[simp] theorem reassemble_nextSendAt (chunk : Bytes) (s : State) :
    (reassemble chunk s).1.nextSendAt = s.nextSendAt := by
  rcases reassemble_cases chunk s with ⟨-, heq⟩ | ⟨-, drops, fs, rest, -, heq⟩
  · rw [heq]
  · rw [heq, afterCuts]

/-- The completion of a write starts the settle time, whatever the job and the result (R204, R205, R210). -/
theorem onTxDone_settles {s : State} (hs : s.Sound) (hw : s.writeOutstanding = true) (r : TransportResult) :
    (onTxDone r s).nextSendAt = s.now + s.cfg.settleTime := by
  rcases onTxDone_outstanding hs hw r with ⟨j, id, -, -, heq⟩ | ⟨j, -, heq⟩
  · rw [heq]
    cases r <;> rfl
  · rw [heq]
    cases r with
    | err e => rfl
    | ok =>
      unfold statusTxDone
      dsimp only
      split <;> rfl

theorem onTxDone_nextSendAt_le {s : State} (hs : s.Sound) (r : TransportResult) :
    s.nextSendAt ≤ (onTxDone r s).nextSendAt := by
  cases hw : s.writeOutstanding with
  | true =>
    obtain ⟨j, ha, hj⟩ := s.writeOutstanding_iff.1 hw
    rw [onTxDone_settles hs hw]
    exact Nat.le_add_right_of_le (hs.jobs.paced j ha hj)
  | false => rw [onTxDone_spurious hw, State.signal_nextSendAt]

/-- An event's operation never moves NEXT_SEND_AT back. -/
theorem eventOp_nextSendAt_le (i : Instr) {s : State} (hs : s.Sound) : s.nextSendAt ≤ (eventOp i s).nextSendAt := by
  cases i with
  | txDone r => exact onTxDone_nextSendAt_le hs r
  | _ => simp [eventOp, onRx, onResetStatus]

/-- An event's operation writes nothing: frames are written by Advance() only. -/
@[simp] theorem txFrames_eventOp (i : Instr) (s : State) : txFrames (eventOp i s).out = txFrames s.out := by
  cases i <;> simp [eventOp, onRx]

/-! Steps -/

/-- A frame among what was emitted is a frame that was not written before. -/
theorem writes_of_emitted {s t : State} (hpre : s.out <+: t.out) (h : txFrames (emitted s t) ≠ []) :
    txFrames t.out ≠ txFrames s.out := by
  obtain ⟨os, hos⟩ := hpre
  rw [emitted, ← hos, List.drop_left] at h
  rw [← hos, txFrames_append]
  simpa using h

/-- A step never moves NEXT_SEND_AT back, and a frame that it writes it writes when NEXT_SEND_AT has been reached. -/
theorem step_paced {s t : State} (hinv : s.Inv) (h : step s = .next t) :
    s.nextSendAt ≤ t.nextSendAt ∧ (txFrames (emitted s t) ≠ [] → t.nextSendAt ≤ t.now) := by
  rcases step_cases h with ⟨-, rfl⟩ | ⟨i, rest, -, -, hexec, rfl⟩
  · exact ⟨le_rfl, fun hne => absurd (by simp [emitted, txFrames]) hne⟩
  · have hp := advance_paces (eventOp i { s with inbox := rest })
    refine ⟨(eventOp_nextSendAt_le i (hinv.sound_inbox rest)).trans hp.nextSendAt, fun hne => hp.writes ?_⟩
    rw [txFrames_eventOp]
    obtain ⟨-, -, -, -, hpre⟩ := cfgFixedTimeByTickBufferByReassembler _ _ _ hexec
    exact writes_of_emitted hpre hne

/-- Along a run the invariant holds and NEXT_SEND_AT never moves back. -/
theorem Steps.paced {s t : State} (h : Steps s t) (hinv : s.Inv) : t.Inv ∧ s.nextSendAt ≤ t.nextSendAt := by
  induction h with
  | refl => exact ⟨hinv, le_rfl⟩
  | tail _ hstep ih =>
    obtain ⟨hinv', hle⟩ := ih
    exact ⟨everyStepKeepsTheInvariants _ _ hinv' hstep, hle.trans (step_paced hinv' hstep).1⟩

/-- The step of a write's completion leaves NEXT_SEND_AT at the end of the settle time or later. -/
theorem step_txDone_settles {s t : State} {r : TransportResult} (hinv : s.Inv) (hw : s.writeOutstanding = true)
    (hpending : s.pending = some (.txDone r)) (h : step s = .next t) :
    s.now + s.cfg.settleTime ≤ t.nextSendAt := by
  rcases step_cases h with ⟨hnone, -⟩ | ⟨i, rest, hpending', -, -, rfl⟩
  · cases hnone.symm.trans hpending
  · obtain rfl : .txDone r = i := Option.some.inj (hpending.symm.trans hpending')
    calc s.now + s.cfg.settleTime
        = (eventOp (.txDone r) { s with inbox := rest }).nextSendAt :=
          (onTxDone_settles (s := { s with inbox := rest }) (hinv.sound_inbox rest) hw r).symm
      _ ≤ _ := (advance_paces _).nextSendAt

/-- Settles O42: NEXT_SEND_AT is at the end of the settle time after the completion, only moves on, and has been reached
when a frame is written. -/
theorem settleTimeBetweenWrites : Obligations.SettleTimeBetweenWrites := by
  unfold Obligations.SettleTimeBetweenWrites
  intro s t u v r hinv hw hpending ht
  have hset := step_txDone_settles hinv hw hpending ht
  refine ⟨fun hne => hset.trans ((step_paced hinv ht).2 hne), fun hrun hv hne => ?_⟩
  obtain ⟨hinvU, hle⟩ := hrun.paced (everyStepKeepsTheInvariants s t hinv ht)
  obtain ⟨hle', hwrite⟩ := step_paced hinvU hv
  calc s.now + s.cfg.settleTime ≤ t.nextSendAt := hset
    _ ≤ u.nextSendAt := hle
    _ ≤ v.nextSendAt := hle'
    _ ≤ v.now := hwrite hne

end Sys2Proof.Machine
end

section
/-! PROOFS. Inbound bytes (R80, R211, R212): the effect of a status response on MAP and on the active job, and RX as the
wire instructions that its frames decode to. -/

namespace Sys2Proof.Machine

open Sys2Proof

/-! A status response (R212) -/

/-- A merge is its map writes, and then the response's effect on the active job; the lanes are read back from MAP. -/
theorem merge_statusLanes (l : Bytes) (s : State) : ∃ m, merge (statusLanes l) s = noteResponse { s with cabMap := m } ∧
    ∀ id : Byte, ({ s with cabMap := m } : State).mapGet id =
      if id.toNat < 48 then some
        { id := id, state := bitState ((byteAt l (id.toNat / 8)).getLsbD (id.toNat % 8)), lastUpdatedAt := s.now }
      else s.mapGet id := by
  obtain ⟨m, hm, heq⟩ := merge_eq (statusLanes l) s
  refine ⟨m, heq, fun id => ?_⟩
  rw [← statusLanes_marks_get, State.mapGet, State.mapGet, ← hm]

@[simp] theorem noteResponse_mapGet (s : State) (id : Byte) : (noteResponse s).mapGet id = s.mapGet id := by
  rw [State.mapGet, noteResponse_cabMap, State.mapGet]

/-- Settles O19: the frame is reported, its lanes are written, and the active job is one of the cases of
`noteResponse`. -/
theorem statusRespMergesAndResolves : Obligations.StatusRespMergesAndResolves := by
  unfold Obligations.StatusRespMergesAndResolves
  intro a s0 s1 s2 s3 s4 s5 extra s hextra
  rw [exec_statusResp a s0 s1 s2 s3 s4 s5 s hextra]
  obtain ⟨m, heq, hget⟩ := merge_statusLanes [s0, s1, s2, s3, s4, s5] { s with
    acc := checksumFn s.cfg.poly (statusRespBody s.cfg a s0 s1 s2 s3 s4 s5 extra)
    out := s.out ++ [.frame (statusRespFrame s.cfg a s0 s1 s2 s3 s4 s5 extra) true] }
  rw [heq]
  refine ⟨_, rfl, fun id => ?_, ?_, ?_⟩
  · exact (noteResponse_mapGet _ id).trans (hget id)
  · rcases ha : s.active with _ | j | j
    · simp [noteResponse]
    · simp [noteResponse]
    · cases hp : j.phase <;> simp [noteResponse, hp, resolve_eq, State.statusReport, State.snapshot]
  · rw [noteResponse_frame]

/-! ACC under the handling of frames (R100, R211) -/

theorem merge_setAcc (d : List (Byte × CabState)) (s : State) (a : Byte) :
    merge d (s.setAcc a) = (merge d s).setAcc a := by
  obtain ⟨u, os, h⟩ := merge_appends d s
  rw [State.setAcc, State.setAcc, h a s.out]
  exact congrArg (fun t : State => { t with acc := a }) (h s.acc s.out).symm

/-- The handling of a frame neither reads nor writes ACC. -/
theorem onFrame_setAcc (f : Bytes) (valid : Bool) (s : State) (a : Byte) :
    onFrame f valid (s.setAcc a) = (onFrame f valid s).setAcc a := by
  unfold onFrame
  dsimp only
  split
  · rfl
  · split
    · rfl
    · by_cases hi : frameInstruction f = s.cfg.instrStatusResp
      · rw [if_pos hi, if_pos (show frameInstruction f = (s.setAcc a).cfg.instrStatusResp from hi), State.setAcc_cfg]
        cases decodeStatusFn s.cfg f with
        | none => rfl
        | some d => exact merge_setAcc d (s.emit (.frame f valid)) a
      · rw [if_neg hi, if_neg (show ¬ frameInstruction f = (s.setAcc a).cfg.instrStatusResp from hi)]
        rfl

theorem onFrames_setAcc (fs : List (Bytes × Bool)) (s : State) (a : Byte) :
    onFrames fs (s.setAcc a) = (onFrames fs s).setAcc a := by
  induction fs generalizing s with
  | nil => rfl
  | cons p fs ih => exact (congrArg (onFrames fs) (onFrame_setAcc p.1 p.2 s a)).trans (ih _)

/-- Validating the last frame once more leaves the ACC that the reassembly left. -/
theorem afterCuts_setAcc (s : State) (drops : List Byte) (fs : List Bytes) (rest : Bytes) :
    (afterCuts s drops fs rest).1.setAcc
        (accAfter (afterCuts s drops fs rest).1.cfg (afterCuts s drops fs rest).1.acc fs) =
      (afterCuts s drops fs rest).1 := by
  have hacc : accAfter s.cfg (accAfter s.cfg s.acc fs) fs = accAfter s.cfg s.acc fs := by
    cases hl : fs.getLast? <;> simp [accAfter, hl]
  exact congrArg (afterCuts s drops fs rest).1.setAcc hacc

/-! RX (R211) -/

/-- What the inbound decoder reads from a frame is executed as the receipt of that frame (R79, R80). -/
theorem exec_of_decodeInbound {f : Bytes} {i : Instr} {s : State} (h : decodeInbound s.cfg f = .ok i) :
    exec i s = .next (receiveFrame f s) := by
  have hf := isFrame_of_decodeInbound h
  cases hs : isStatusResponse s.cfg f with
  | true =>
    obtain ⟨a, s0, s1, s2, s3, s4, s5, extra, hextra, rfl⟩ := exists_statusRespFrame hf hs
    obtain rfl := Except.ok.inj ((decodeInbound_statusRespFrame s.cfg a s0 s1 s2 s3 s4 s5 hextra).symm.trans h)
    rfl
  | false =>
    obtain rfl := Except.ok.inj ((decodeInbound_other hf hs).symm.trans h)
    rfl

/-- Frames, each received on its own: their handling, and the last one's checksum in ACC. -/
theorem execAll_frames (fs : List Bytes) (s : State) (hfs : ∀ f ∈ fs, isFrame s.cfg f = true) :
    ∃ is, fs.map (decodeInbound s.cfg) = is.map .ok ∧
      execAll is s = .next
        ((onFrames (fs.map fun f => (f, validateFn s.cfg.poly f)) s).setAcc (accAfter s.cfg s.acc fs)) := by
  induction fs generalizing s with
  | nil => exact ⟨[], rfl, rfl⟩
  | cons f fs ih =>
    have hf := hfs f List.mem_cons_self
    obtain ⟨i, hi, -, -⟩ := exists_decodeInbound hf
    have hne : f ≠ [] := by
      rintro rfl
      cases hf
    have hcfg : (receiveFrame f s).cfg = s.cfg := (receiveFrame_keepsFrame f s).cfg
    obtain ⟨is, his, hexec⟩ := ih (receiveFrame f s) fun g hg => hcfg ▸ hfs g (List.mem_cons_of_mem _ hg)
    rw [hcfg] at his hexec
    refine ⟨i :: is, by rw [List.map_cons, List.map_cons, hi, his], ?_⟩
    rw [execAll_cons_of_next (exec_of_decodeInbound hi), hexec, receiveFrame_eq f s hne, onFrame_setAcc,
      onFrames_setAcc, State.setAcc_acc, accAfter_cons s.cfg s.acc f fs]
    rfl

/-- Settles O22: the frames cut are frames, so each decodes; their validation leaves the ACC that the reassembly
left. -/
theorem rxRunsTheDecodedFrames : Obligations.RxRunsTheDecodedFrames := by
  unfold Obligations.RxRunsTheDecodedFrames
  intro chunk s
  rcases reassemble_cases chunk s with ⟨-, heq⟩ | ⟨-, drops, fs, rest, hcuts, heq⟩
  · refine ⟨[], (reassemble chunk s).1, by simp [heq], rfl, ?_⟩
    rw [exec_of_isEvent rfl, eventOp, onRx, heq]
    rfl
  · obtain ⟨is, his, hexec⟩ := execAll_frames fs (afterCuts s drops fs rest).1 hcuts.isFrame
    refine ⟨is, onRx chunk s, ?_, ?_, exec_of_isEvent rfl s⟩
    · rw [← his, heq, afterCuts_frames, List.map_map]
      rfl
    · rw [onRx, heq, hexec, ← onFrames_setAcc, afterCuts_setAcc]
      rfl

end Sys2Proof.Machine
end

section
/-! PROOFS. The write slot (R220, R254): an event that is no TxDone leaves an outstanding write alone, and Advance()
writes at most one frame, on a connected line, which is then outstanding. -/

namespace Sys2Proof.Machine

open Sys2Proof

/-! What an event's operation leaves of an outstanding write -/

/-- Whether a write is outstanding is read off the active job. -/
theorem State.writeOutstanding_congr {s t : State} (h : t.active = s.active) :
    t.writeOutstanding = s.writeOutstanding := by
  rw [State.writeOutstanding, h, State.writeOutstanding]

@[simp] theorem onConnect_writeOutstanding (path : OpaqueValue) (baud t : Nat) (s : State) :
    (onConnect path baud t s).writeOutstanding = s.writeOutstanding := by
  unfold onConnect
  split <;> rfl

@[simp] theorem onDisconnect_writeOutstanding (t : Nat) (s : State) :
    (onDisconnect t s).writeOutstanding = s.writeOutstanding := by
  refine State.writeOutstanding_congr ?_
  unfold onDisconnect
  dsimp only
  split <;> simp

@[simp] theorem onOpenCabinets_writeOutstanding (ids : List Int) (t : Nat) (s : State) :
    (onOpenCabinets ids t s).writeOutstanding = s.writeOutstanding := by
  unfold onOpenCabinets
  split <;> rfl

@[simp] theorem onGetStatus_writeOutstanding (fresh : Bool) (t : Nat) (s : State) :
    (onGetStatus fresh t s).writeOutstanding = s.writeOutstanding := by
  unfold onGetStatus
  split <;> rfl

@[simp] theorem onConnectDone_writeOutstanding (r : TransportResult) (s : State) :
    (onConnectDone r s).writeOutstanding = s.writeOutstanding := by
  refine State.writeOutstanding_congr ?_
  unfold onConnectDone
  split
  · cases r <;> simp
  · rfl

@[simp] theorem onLineLost_writeOutstanding (s : State) : (onLineLost s).writeOutstanding = s.writeOutstanding := by
  unfold onLineLost
  split <;> rfl

/-- A status job that times out is Awaiting: its write was completed before (R215). -/
theorem checkTimeout_writeOutstanding (s : State) : (checkTimeout s).writeOutstanding = s.writeOutstanding := by
  unfold checkTimeout
  split
  next j ha =>
    split
    next he =>
      obtain ⟨hp, -⟩ := (j.expired_iff _).1 he
      simp [resolve_eq, State.writeOutstanding, ha, Job.isAwaitTx, hp]
    next => rfl
  next => rfl

@[simp] theorem onTick_writeOutstanding (n : Nat) (s : State) : (onTick n s).writeOutstanding = s.writeOutstanding :=
  (checkTimeout_writeOutstanding _).trans (State.writeOutstanding_congr (s.advanceTime_active n))

/-- A response resolves an Awaiting job, whose write was completed, and an AwaitTx one stays so (R212). -/
theorem noteResponse_writeOutstanding (s : State) : (noteResponse s).writeOutstanding = s.writeOutstanding := by
  have h := noteResponse_outcome s
  generalize noteResponse s = t at h
  cases h with
  | fresh j ha hp => simp [State.writeOutstanding, ha, Job.isAwaitTx, hp]
  | seen j ha hp => simp [State.writeOutstanding, ha, Job.isAwaitTx]
  | none => rfl

@[simp] theorem onFrame_writeOutstanding (f : Bytes) (valid : Bool) (s : State) :
    (onFrame f valid s).writeOutstanding = s.writeOutstanding := by
  rcases onFrame_cases f valid s with heq | ⟨-, -, -, d, heq⟩
  · rw [heq]
    rfl
  · obtain ⟨m, -, heq'⟩ := merge_eq d { s with out := s.out ++ [.frame f valid] }
    rw [heq, heq', noteResponse_writeOutstanding]
    rfl

@[simp] theorem onFrames_writeOutstanding (fs : List (Bytes × Bool)) (s : State) :
    (onFrames fs s).writeOutstanding = s.writeOutstanding := by
  induction fs generalizing s with
  | nil => rfl
  | cons p fs ih => exact (ih _).trans (onFrame_writeOutstanding p.1 p.2 s)

@[simp] theorem reassemble_writeOutstanding (chunk : Bytes) (s : State) :
    (reassemble chunk s).1.writeOutstanding = s.writeOutstanding := by
  rcases reassemble_cases chunk s with ⟨-, heq⟩ | ⟨-, drops, fs, rest, -, heq⟩
  · rw [heq]
    rfl
  · rw [heq]
    rfl

/-- Only a TxDone can end an outstanding write, and nothing but Advance() begins one. -/
theorem eventOp_writeOutstanding {i : Instr} (hi : ∀ r, i ≠ .txDone r) (s : State) :
    (eventOp i s).writeOutstanding = s.writeOutstanding := by
  cases i with
  | txDone r => exact absurd rfl (hi r)
  | connect path baud => exact onConnect_writeOutstanding path baud _ _
  | disconnect => exact onDisconnect_writeOutstanding _ _
  | openCabinets ids => exact onOpenCabinets_writeOutstanding ids _ _
  | getStatus fresh => exact onGetStatus_writeOutstanding fresh _ _
  | rx chunk => exact (onFrames_writeOutstanding _ _).trans (reassemble_writeOutstanding chunk s)
  | connectDone r => exact onConnectDone_writeOutstanding r s
  | lineLost => exact onLineLost_writeOutstanding s
  | tick n => exact onTick_writeOutstanding n s
  | _ => rfl

/-! What Advance() writes -/

theorem Job.isReady_of_isAwaitTx {j : Job} (h : j.isAwaitTx = true) : j.isReady = false := by
  cases j with
  | openJob j =>
    have hp : j.phase = .awaitTx := by simpa [Job.isAwaitTx] using h
    simp [Job.isReady, hp]
  | statusJob j =>
    have hp : j.phase = .awaitTx := by simpa [Job.isAwaitTx] using h
    simp [Job.isReady, hp]

/-- While a write is outstanding Advance() does nothing. -/
theorem advance_of_writeOutstanding {s : State} (h : s.writeOutstanding = true) : advance s = s := by
  obtain ⟨j, ha, hj⟩ := s.writeOutstanding_iff.1 h
  exact advance_of_not_ready ha (Job.isReady_of_isAwaitTx hj)

/-- From `s` to `t` no frame is written, or one on a connected line, and then its write is outstanding. -/
def WritesAtMostOnce (s t : State) : Prop :=
  txFrames t.out = txFrames s.out ∨
    ∃ f, txFrames t.out = txFrames s.out ++ [f] ∧ t.conn = .connected ∧ t.writeOutstanding = true

namespace WritesAtMostOnce

variable {s t u : State}

/-- Silence, and then the rest. -/
theorem trans_silent (ho : txFrames t.out = txFrames s.out) (h : WritesAtMostOnce t u) : WritesAtMostOnce s u := by
  rwa [WritesAtMostOnce, ho] at h

/-- The same of what was emitted. -/
theorem emitted (h : WritesAtMostOnce s t) (hpre : s.out <+: t.out) :
    txFrames (emitted s t) = [] ∨
      ∃ f, txFrames (Machine.emitted s t) = [f] ∧ t.conn = .connected ∧ t.writeOutstanding = true := by
  obtain ⟨os, hos⟩ := hpre
  simpa [WritesAtMostOnce, Machine.emitted, ← hos] using h

end WritesAtMostOnce

theorem jobStep_writesAtMostOnce (j : Job) (s : State) : WritesAtMostOnce s (jobStep j s).1 := by
  have h := jobStep_outcome j s
  generalize (jobStep j s).1 = t at h
  generalize (jobStep j s).2 = progressed at h
  cases h with
  | finish => exact .inl (by simp [txFrames])
  | wait => exact .inl rfl
  | openFail => exact .inl rfl
  | openWrite o id _ _ hc => exact .inr ⟨_, txFrames_append _ _, hc, rfl⟩
  | statusFail => exact .inl (by simp [txFrames])
  | statusWrite o _ hc => exact .inr ⟨_, txFrames_append _ _, hc, rfl⟩

/-- Advance() stops at the job step that writes: the steps before it progress, and so write nothing. -/
theorem advance_writesAtMostOnce (s : State) : WritesAtMostOnce s (advance s) := by
  have dequeued {s t : State} (h : WritesAtMostOnce (dequeue s) t) : WritesAtMostOnce s t :=
    .trans_silent (by rw [dequeue_out]) h
  exact advance_induct (P := WritesAtMostOnce) (fun _ _ _ => .inl rfl) (fun _ _ _ _ => dequeued (.inl rfl))
    (fun _ j _ _ _ => dequeued (jobStep_writesAtMostOnce j _))
    (fun _ _ _ _ hp ih => dequeued (.trans_silent (txFrames_jobStep_of_progress hp) ih)) s

/-! Steps -/

theorem step_writesAtMostOnce {s t : State} (h : step s = .next t) :
    txFrames (emitted s t) = [] ∨
      ∃ f, txFrames (emitted s t) = [f] ∧ t.conn = .connected ∧ t.writeOutstanding = true := by
  rcases step_cases h with ⟨-, rfl⟩ | ⟨i, rest, -, -, hexec, rfl⟩
  · exact .inl (by simp [emitted, txFrames])
  · obtain ⟨-, -, -, -, hpre⟩ := cfgFixedTimeByTickBufferByReassembler _ _ _ hexec
    exact (WritesAtMostOnce.trans_silent (txFrames_eventOp i _) (advance_writesAtMostOnce _)).emitted hpre

/-- A step that takes no TxDone keeps an outstanding write so, and writes nothing: its Advance() does nothing. -/
theorem step_of_writeOutstanding {s t : State} (hw : s.writeOutstanding = true)
    (hp : ∀ r, s.pending ≠ some (.txDone r)) (h : step s = .next t) :
    txFrames (emitted s t) = [] ∧ t.writeOutstanding = true := by
  rcases step_cases h with ⟨-, rfl⟩ | ⟨i, rest, hi, -, hexec, rfl⟩
  · exact ⟨by simp [emitted, txFrames], hw⟩
  · have hkeep : (eventOp i { s with inbox := rest }).writeOutstanding = true :=
      (eventOp_writeOutstanding (fun r heq => hp r (heq ▸ hi)) _).trans hw
    obtain ⟨-, -, -, -, hpre⟩ := cfgFixedTimeByTickBufferByReassembler _ _ _ hexec
    rw [advance_of_writeOutstanding hkeep] at hpre ⊢
    refine ⟨?_, hkeep⟩
    by_contra hne
    exact writes_of_emitted hpre hne (txFrames_eventOp i _)

/-- Settles O41: one frame at most leaves its write outstanding on a connected line; pacing is `step_paced`; and an
outstanding write holds Advance() up. -/
theorem atMostOneWriteOutstanding : Obligations.AtMostOneWriteOutstanding := by
  unfold Obligations.AtMostOneWriteOutstanding
  intro s t hinv h
  obtain ⟨-, hpaced⟩ := step_paced hinv h
  refine ⟨?_, fun hne => ?_, fun hw hp => step_of_writeOutstanding hw hp h⟩
  · rcases step_writesAtMostOnce h with hnone | ⟨f, hone, -, -⟩
    · simp [hnone]
    · simp [hone]
  · rcases step_writesAtMostOnce h with hnone | ⟨f, -, hc, hw⟩
    · exact absurd hnone hne
    · exact ⟨hc, hpaced hne, hw⟩

end Sys2Proof.Machine
end

section
/-! PROOFS. Exceptions (R240, R241, R249, R282): no event stops the engine, the error taxonomy, and the race between a
status response and its deadline. -/

namespace Sys2Proof.Machine

open Sys2Proof

/-- BUILD, with its refusal (R122), is the only instruction that can answer no next state. -/
theorem exec_next_of_ne_build {i : Instr} (hi : ∀ p a c, i ≠ .build p a c) (s : State) : ∃ t, exec i s = .next t := by
  cases i with
  | build p a c => exact absurd rfl (hi p a c)
  | _ => exact ⟨_, rfl⟩

/-- Settles O40: an event is its operation and then Advance(), both total. -/
theorem noEventStopsTheEngine : Obligations.NoEventStopsTheEngine := by
  unfold Obligations.NoEventStopsTheEngine
  exact ⟨fun i s hi => ⟨_, exec_of_isEvent hi s⟩, fun i s hi => exec_next_of_ne_build hi s⟩

/-- Settles O60: the table of R241, value by value. -/
theorem errorCodesAndDelivery : Obligations.ErrorCodesAndDelivery := by
  unfold Obligations.ErrorCodesAndDelivery
  exact ⟨fun _ => ⟨rfl, fun _ => rfl⟩, fun _ => rfl, fun _ _ _ => rfl, fun _ _ _ _ => rfl, fun _ _ _ => rfl,
    fun _ => ⟨rfl, rfl⟩, rfl, rfl, fun _ _ _ => rfl, fun _ => ⟨rfl, rfl⟩, fun _ => ⟨rfl, fun _ => rfl⟩⟩

/-! A response and its deadline (R249, R282) -/

/-- One whole frame on an empty buffer: RX is its receipt (R146, R211). -/
theorem onRx_of_isFrame {f : Bytes} {s : State} (hf : isFrame s.cfg f = true) (hbuf : s.rxbuf = [])
    (hcap : f.length ≤ s.cfg.bufCap) : onRx f s = receiveFrame f s := by
  have hcuts : Cuts s.cfg (s.rxbuf ++ f) [] [f] [] := by
    rw [hbuf]
    exact .of_isFrame hf
  have hne : f ≠ [] := by
    rintro rfl
    cases hf
  have hcut : (afterCuts s [] [f] []).1 = s.setAcc (checksumFn s.cfg.poly f.dropLast) := by
    simp [afterCuts, accAfter, State.setAcc, ← hbuf]
  rw [onRx, reassemble_eq_afterCuts (by simpa [hbuf] using hcap) hcuts, hcut, receiveFrame_eq f s hne]
  rfl

theorem execAll_pair {i k : Instr} {s t u : State} (hi : exec i s = .next t) (hk : exec k t = .next u) :
    execAll [i, k] s = .next u := by
  rw [execAll_cons_of_next hi, execAll_cons_of_next hk, execAll]

section Race

variable {a s0 s1 s2 s3 s4 s5 : Byte} {s : State}

/-- The chunk of a whole status response is the STATUS_RESP, and then Advance(). -/
theorem exec_rx_statusResp (hbuf : s.rxbuf = []) (hcap : 12 ≤ s.cfg.bufCap) {t : State}
    (ht : exec (.statusResp a s0 s1 s2 s3 s4 s5 []) s = .next t) :
    exec (.rx (statusRespFrame s.cfg a s0 s1 s2 s3 s4 s5 [])) s = .next (advance t) := by
  have hframe := isFrame_statusRespFrame s.cfg a s0 s1 s2 s3 s4 s5 (extra := []) (by simp)
  have hrx : exec (.statusResp a s0 s1 s2 s3 s4 s5 []) s =
      .next (onRx (statusRespFrame s.cfg a s0 s1 s2 s3 s4 s5 []) s) := by
    rw [onRx_of_isFrame hframe hbuf (by simpa [statusRespFrame, statusRespBody] using hcap)]
    rfl
  obtain rfl := Host.Outcome.next.inj (hrx.symm.trans ht)
  exact exec_of_isEvent rfl s

/-- A response that an Awaiting job waits for resolves it Fresh, and no job is left. -/
theorem exec_rx_resolves {j : StatusJob} (ha : s.active = some (.statusJob j)) (hp : j.phase = .awaiting)
    (hq : s.queue = []) (hbuf : s.rxbuf = []) (hcap : 12 ≤ s.cfg.bufCap) :
    ∃ u cs, exec (.rx (statusRespFrame s.cfg a s0 s1 s2 s3 s4 s5 [])) s = .next u ∧ u.active = none ∧ u.queue = [] ∧
      u.out = s.out ++ [.frame (statusRespFrame s.cfg a s0 s1 s2 s3 s4 s5 []) true,
        .response j.ticket (.status (decide (s.conn = .connected)) cs .fresh)] := by
  obtain ⟨u, hu, -, hjob, hrest⟩ := statusRespMergesAndResolves a s0 s1 s2 s3 s4 s5 [] s (by simp)
  simp only [ha, hp] at hjob
  obtain ⟨hactive, hout⟩ := hjob
  have hqueue : u.queue = [] := (congrArg State.queue hrest).trans hq
  refine ⟨u, u.snapshot, ?_, hactive, hqueue, hout⟩
  rw [exec_rx_statusResp hbuf hcap hu, advance_of_no_job hactive hqueue]

/-- A response that no job waits for is only reported. -/
theorem exec_rx_idle (ha : s.active = none) (hq : s.queue = []) (hbuf : s.rxbuf = []) (hcap : 12 ≤ s.cfg.bufCap) :
    ∃ u, exec (.rx (statusRespFrame s.cfg a s0 s1 s2 s3 s4 s5 [])) s = .next u ∧
      u.out = s.out ++ [.frame (statusRespFrame s.cfg a s0 s1 s2 s3 s4 s5 []) true] := by
  obtain ⟨u, hu, -, hjob, hrest⟩ := statusRespMergesAndResolves a s0 s1 s2 s3 s4 s5 [] s (by simp)
  simp only [ha] at hjob
  obtain ⟨hactive, hout⟩ := hjob
  have hqueue : u.queue = [] := (congrArg State.queue hrest).trans hq
  refine ⟨u, ?_, hout⟩
  rw [exec_rx_statusResp hbuf hcap hu, advance_of_no_job hactive hqueue]

/-- Without a job a TICK sets the time and no more. -/
theorem exec_tick_idle (ha : s.active = none) (hq : s.queue = []) (n : Nat) :
    exec (.tick n) s = .next { s with now := max s.now n } := by
  have hnoJob (j : StatusJob) (d : Nat) (ha' : s.active = some (.statusJob j)) (_ : j.phase = .awaiting)
      (_ : j.deadline = some d) : max s.now n < d := by
    simp [ha] at ha'
  rw [(tickAdvancesTimeAndTimesOut n s).2 hnoJob]
  exact congrArg Host.Outcome.next (advance_of_no_job ha hq)

/-- The TICK at or after the deadline resolves an Awaiting job TimedOut, and no job is left. -/
theorem exec_tick_expires {j : StatusJob} {d n : Nat} (ha : s.active = some (.statusJob j)) (hp : j.phase = .awaiting)
    (hd : j.deadline = some d) (hn : d ≤ n) (hq : s.queue = []) :
    ∃ u cs, exec (.tick n) s = .next u ∧ u.cfg = s.cfg ∧ u.rxbuf = s.rxbuf ∧ u.active = none ∧ u.queue = [] ∧
      u.out = s.out ++ [.diag .frameTimeout,
        .response j.ticket (.status (decide (s.conn = .connected)) cs .timedOut)] := by
  have htick := (tickAdvancesTimeAndTimesOut n s).1 j d ha hp hd (hn.trans (Nat.le_max_right _ _))
  exact ⟨_, _, htick.trans (congrArg Host.Outcome.next (advance_of_no_job rfl hq)), rfl, rfl, rfl, hq, rfl⟩

end Race

/-- Settles O50: whichever event comes first resolves the job, and the second finds none. -/
theorem responseAndDeadlineRace : Obligations.ResponseAndDeadlineRace := by
  unfold Obligations.ResponseAndDeadlineRace
  intro j d n a s0 s1 s2 s3 s4 s5 s ha hp hd hn hq hbuf hcap
  dsimp only
  constructor
  case left =>
    obtain ⟨u, cs, hrx, hactive, hqueue, hout⟩ := exec_rx_resolves ha hp hq hbuf hcap
    exact ⟨{ u with now := max u.now n }, _, cs, execAll_pair hrx (exec_tick_idle hactive hqueue n), hout⟩
  case right =>
    obtain ⟨u, cs, htick, hcfg, hbuf', hactive, hqueue, hout⟩ := exec_tick_expires ha hp hd hn hq
    obtain ⟨v, hrx, hout'⟩ := exec_rx_idle hactive hqueue (hbuf'.trans hbuf) (hcfg ▸ hcap)
    rw [hcfg] at hrx hout'
    refine ⟨v, decide (s.conn = .connected), cs, execAll_pair htick hrx, ?_⟩
    rw [hout', hout, List.append_assoc]
    rfl

end Sys2Proof.Machine
end

section
/-! PROOFS. Bring-up (R275): the three host and transport events that lead from construction to the first frame. -/

namespace Sys2Proof.Machine

open Sys2Proof

section NoJob

variable {s : State}

/-- Off the line and without a job, CONNECT only opens the port. -/
theorem exec_connect_idle (hc : s.conn = .disconnected) (ha : s.active = none) (hq : s.queue = []) (path : OpaqueValue)
    (baud : Nat) :
    exec (.connect path baud) s = .next { s with
      nextTicket := s.nextTicket + 1
      conn := .connecting
      connectTicket := some s.nextTicket
      out := s.out ++ [.openPort path baud] } := by
  rw [(connectOpensThePortOrIsRefused path baud s).1 (.inl hc)]
  exact congrArg Host.Outcome.next (advance_of_no_job ha hq)

/-- Without a job, CONNECT_DONE(Ok) only answers the pending call. -/
theorem exec_connectDone_idle {ct : Nat} (hc : s.conn = .connecting) (hp : s.connectTicket = some ct)
    (ha : s.active = none) (hq : s.queue = []) :
    exec (.connectDone .ok) s = .next { s with
      conn := .connected, connectTicket := none, out := s.out ++ [.response ct .connectedOk] } := by
  rw [(connectDoneAnswersTheCall ct s hc hp).1]
  exact congrArg Host.Outcome.next (advance_of_no_job ha hq)

/-- The IDs of bytes pass the structural check, and are queued as these bytes (R86, R199). -/
theorem exec_openCabinets_bytes {bs : Bytes} (hne : bs ≠ []) (s : State) :
    exec (.openCabinets (bs.map fun b => (b.toNat : Int))) s = .next (advance { s with
      nextTicket := s.nextTicket + 1
      queue := s.queue ++ [.openJob
        { ticket := s.nextTicket, ids := bs, k := 0, opened := [], failed := [], phase := .ready }] }) := by
  have hrange : ∀ v ∈ bs.map fun b => (b.toNat : Int), 0 ≤ v ∧ v ≤ 255 := by
    intro v hv
    obtain ⟨b, -, rfl⟩ := List.mem_map.1 hv
    omega
  have hinj : Function.Injective fun b : Byte => (b.toNat : Int) :=
    fun b b' h => BitVec.eq_of_toNat_eq (Int.ofNat_inj.1 h)
  obtain ⟨bs', hbs', hexec⟩ := openCabinetsValidatesThenQueues.2.2 _ s (by simpa using hne) hrange
  obtain rfl : bs' = bs := hinj.list_map hbs'
  exact hexec

/-- A queued batch with a current ID becomes active and writes its command (R197, R203). -/
theorem advance_starts_open {j : OpenJob} {rest : List Job} {id : Byte} (ha : s.active = none)
    (hq : s.queue = .openJob j :: rest) (hr : j.phase = .ready) (hid : j.ids[j.k]? = some id)
    (hn : s.nextSendAt ≤ s.now) (hc : s.conn = .connected) :
    advance s = { s with
      acc := checksumFn s.cfg.poly (frameBody s.cfg [id] s.cfg.address s.cfg.instrOpen)
      queue := rest
      active := some (.openJob { j with phase := .awaitTx })
      out := s.out ++ [.txFrame (sealFrame s.cfg.poly (frameBody s.cfg [id] s.cfg.address s.cfg.instrOpen))] } := by
  rw [advance_of_queued ha hq]
  exact advance_writes_open (s := { s with active := some (.openJob j), queue := rest }) rfl hr hid hn hc

/-- On a connected line with a free slot and no job before it, a batch is started and its first command written. -/
theorem exec_openCabinets_writes (hc : s.conn = .connected) (ha : s.active = none) (hq : s.queue = [])
    (hn : s.nextSendAt ≤ s.now) (id : Byte) (ids : Bytes) :
    ∃ u, exec (.openCabinets ((id :: ids).map fun b => (b.toNat : Int))) s = .next u ∧ u.cfg = s.cfg ∧
      u.conn = .connected ∧ u.writeOutstanding = true ∧
      u.out = s.out ++ [.txFrame (sealFrame s.cfg.poly (frameBody s.cfg [id] s.cfg.address s.cfg.instrOpen))] := by
  have hexec := exec_openCabinets_bytes (List.cons_ne_nil id ids) s
  rw [hq] at hexec
  exact ⟨_, hexec.trans (congrArg Host.Outcome.next (advance_starts_open ha rfl rfl rfl hn hc)), rfl, hc, rfl, rfl⟩

end NoJob

/-- Construction writes no frame: its one possible output is the collision report (R271). -/
theorem txFrames_constructed (c : Cfg) : txFrames (State.constructed c).out = [] := by
  unfold State.constructed
  dsimp only
  split <;> rfl

/-- Settles O59: each event meets a state without a job; the last finds the line connected and the first slot free
(R35). -/
theorem bootReachesTheFirstFrame : Obligations.BootReachesTheFirstFrame := by
  unfold Obligations.BootReachesTheFirstFrame
  intro path baud id ids
  have hconnect := exec_connect_idle (s := State.reset) rfl rfl rfl path baud
  have hdone := exec_connectDone_idle (s := { State.reset with
    nextTicket := 1, conn := .connecting, connectTicket := some 0
    out := State.reset.out ++ [.openPort path baud] }) rfl rfl rfl rfl
  obtain ⟨u, hopen, hcfg, hconn, hwrite, hout⟩ := exec_openCabinets_writes (s := { State.reset with
    nextTicket := 1, conn := .connected, connectTicket := none
    out := State.reset.out ++ [.openPort path baud] ++ [.response 0 .connectedOk] }) rfl rfl rfl le_rfl id ids
  refine ⟨u, ?_, hconn, hwrite, ?_⟩
  · rw [execAll_cons_of_next hconnect]
    exact execAll_pair hdone hopen
  · have hreset : txFrames State.reset.out = [] := txFrames_constructed Config.cfg
    simp [hout, hcfg, hreset, txFrames, frameBody]

end Sys2Proof.Machine
end
